-- ==== Sys2Proof/Word.lean ====
section
/-! DEFINITION. The data the block moves: bytes, PIDs, strides, teletext lines, the Field Buffer, frames, diagnostics and
trace events (spec 00_scope.md R10 to R14, 30_encoding.md R60, R69, R70, 45_host_interface.md R204). Only types stand here; the functions that read
fields out of bytes stand in Machine/Operands.lean. -/

set_option autoImplicit false

namespace Sys2Proof

/-- One byte; bit 0 is the least significant (R11). -/
abbrev Byte := BitVec 8

/-- A 13-bit program identifier (R5, R10 `PID_BITS`). -/
abbrev Pid := BitVec 13

/-- A buffer of exactly `n` entries: the list with the proof of its length. -/
structure Block (α : Type) (n : Nat) where
  toList : List α
  length_eq : toList.length = n
  deriving DecidableEq, Repr

variable {α : Type} {n : Nat}

/-- Entry `i`. -/
def Block.get (b : Block α n) (i : Fin n) : α := b.toList[i.val]'(by rw [b.length_eq]; exact i.isLt)

/-- The buffer with entry `i` replaced. -/
def Block.set (b : Block α n) (i : Fin n) (x : α) : Block α n :=
  ⟨b.toList.set i.val x, by rw [List.length_set, b.length_eq]⟩

/-- The buffer whose entry `i` is `f i`. -/
def Block.tabulate (f : Fin n → α) : Block α n := ⟨List.ofFn f, List.length_ofFn⟩

/-- The buffer with every entry `x`. -/
def Block.fill (n : Nat) (x : α) : Block α n := ⟨List.replicate n x, List.length_replicate⟩

/-- A complete stride, bytes 0..187 (R10 `TS_LEN`, R60). -/
abbrev Stride := Block Byte 188

/-- A 42-byte teletext line payload (R10 `LINE_LEN`, R68). -/
abbrev Line := Block Byte 42

/-- The Field Buffer: 16 rows of 42 bytes, row r for line offset r + 7 (R27). -/
abbrev FieldBuffer := Block Line 16

/-- An emitted frame of exactly 672 bytes (R10 `FRAME_LEN`, R69). -/
abbrev Frame := Block Byte 672

/-- A diagnostic event with the arguments its code carries (60_exceptions.md R221); its binary record is `diagCode` and
`diagArgs` in Decode.lean. -/
inductive Diag where
  /-- 0x01: stride byte 0 is not `P_SYNC_BYTE`; the argument is that byte. -/
  | syncMissing (sync : Byte)
  /-- 0x02: a candidate packet shorter than 9 bytes; the argument is its length. -/
  | pesTooShort (len : BitVec 24)
  /-- 0x03: the start-code prefix is not 0x000001; the argument is the prefix. -/
  | pesNoPrefix (pre : BitVec 24)
  /-- 0x04: the stream id is not 0xBD; the argument is the stream id. -/
  | pesBadStreamId (sid : Byte)
  /-- 0x05: `6 + PKTLEN` exceeds the packet; the argument is PKTLEN. -/
  | pesTruncated (pktLen : BitVec 16)
  /-- 0x06: a line offset outside 7..22; the argument is the offset. -/
  | lineOffsetInvalid (off : BitVec 5)
  /-- 0x07: a line offset below the last accepted one; the arguments are the new and the old offset. -/
  | lineOffsetDecreasing (off last : BitVec 5)
  /-- 0x08: the PES buffer would exceed a finite cap; no argument. -/
  | pesOverflow
  deriving DecidableEq, Repr

/-- One entry of the event trace (R204). -/
inductive Event where
  /-- A frame was emitted. -/
  | frame (f : Frame)
  /-- A diagnostic was presented. -/
  | diag (d : Diag)
  deriving DecidableEq, Repr

end Sys2Proof
end

