-- ==== Sys2Proof/Config.lean ====
section
/-! DEFINITION. What an instance of the block fixes (the parameters of 00_scope.md R6 to R9), what the decode tree reads of the
state (30_encoding.md R71), and the one free value (93_implementation_defined.md I8). -/

set_option autoImplicit false

namespace Sys2Proof

/-- The fixed properties of one instance (R250: "fixed properties of the instance"). They stand in `State` and no step writes
them, so a statement about every state holds for every instance (DESIGN CHOICE, log entry 17). -/
structure Params where
  /-- `P_SYNC_BYTE` (R6). -/
  syncByte : Byte
  /-- `P_INIT_PARITY`, left OPEN by the spec (R7). -/
  initParity : BitVec 1
  /-- `P_PES_CAP`; `none` is `UNBOUNDED` (R8). -/
  pesCap : Option Nat
  /-- `P_EMPTY_START_OPENS` (R9). -/
  emptyStartOpens : Bool
  deriving DecidableEq, Repr

/-- A finite `P_PES_CAP` is a positive number (R8). -/
def paramsWellFormed (p : Params) : Bool := decide (p.pesCap ≠ some 0)

/-- The values the decode tree compares its input with: `P_SYNC_BYTE`, `CFG_PID`, `PARITY` and `LAST_OFF` (R71). -/
structure Ctx where
  sync : Byte
  pid : Pid
  parity : BitVec 1
  lastOff : BitVec 5
  deriving DecidableEq, Repr

/-- FREE VALUE (log entry 2): byte `i` of `SB` after the `n`-th RESET, "any value" (R22, R250, I8). It has no body. -/
opaque Config.freeByte : Nat → Nat → Byte

end Sys2Proof
end

