-- ==== Sys2Proof/Machine/Operands.lean ====
section
/-! DEFINITION. Operand forms: byte sequences and big-endian composition (00_scope.md R12 to R14), and every field of the transport
packet, the PES packet and the data-unit slot (30_encoding.md R61 to R68). -/

set_option autoImplicit false

namespace Sys2Proof.Machine

/-- `P_SYNC_BYTE`'s default, the MPEG-2 sync byte (R6, PRESUMED: log entry 4). -/
def defaultSyncByte : Byte := 0x47

/-- `S[i]` (R12); the rules read it only inside the sequence, and outside it this reads 0
(log entry 14). -/
def byteAt (p : List Byte) (i : Nat) : Byte := p.getD i 0

/-- `S[a..b]`, inclusive, empty when a > b and cut at the end of S (R12). -/
def slice (p : List Byte) (a b : Nat) : List Byte := (p.drop a).take (b + 1 - a)

/-- `be16(a, b) = a·256 + b` (R13, R42). -/
def be16 (a b : Byte) : BitVec 16 := a ++ b

/-- `be24(a, b, c) = a·65536 + b·256 + c` (R13, R42). -/
def be24 (a b c : Byte) : BitVec 24 := a ++ (b ++ c)

/-! Transport packet header (R61). -/

/-- `SYNC`: byte 0. -/
def syncField (sb : Stride) : Byte := sb.get 0

/-- `PUSI = SB[1][6]`. -/
def pusiField (sb : Stride) : Bool := (sb.get 1).getLsbD 6

/-- `PID = zext_13(SB[1][4:0]·256 + SB[2])` (PRESUMED by the spec itself: log entry 13). -/
def pidField (sb : Stride) : Pid := (sb.get 1).setWidth 5 ++ sb.get 2

/-- `AFC = SB[3][5:4]` (PRESUMED by the spec itself: log entry 13). -/
def afcField (sb : Stride) : BitVec 2 := (sb.get 3).extractLsb' 4 2

/-- The payload of TS_AFC3_PAYLOAD from `L` and `SB[5..187]`: `SB[5+L..187]` if L ≤ 183, else empty (R62, R109). -/
def afc3Payload (len : Byte) (rest : List Byte) : List Byte :=
  if len.toNat ≤ 183 then rest.drop len.toNat else []

/-! PES packet header (R64, R141). -/

/-- `PREFIX = be24(P[0], P[1], P[2])`. -/
def pesPrefix (p : List Byte) : BitVec 24 := be24 (byteAt p 0) (byteAt p 1) (byteAt p 2)

/-- `SID = P[3]`. -/
def pesStreamId (p : List Byte) : Byte := byteAt p 3

/-- `PKTLEN = be16(P[4], P[5])`. -/
def pesPktLen (p : List Byte) : BitVec 16 := be16 (byteAt p 4) (byteAt p 5)

/-- `START = 9 + HDRLEN` with `HDRLEN = P[8]`. -/
def pesStartOff (p : List Byte) : Nat := 9 + (byteAt p 8).toNat

/-- `END = 6 + PKTLEN` if PKTLEN > 0, else `len(P)`. -/
def pesEndOff (p : List Byte) : Nat :=
  if pesPktLen p ≠ 0 then 6 + (pesPktLen p).toNat else p.length

/-- The data region `R = P[START..END-1]` (R65). -/
def pesRegion (p : List Byte) : List Byte :=
  (p.drop (pesStartOff p)).take (pesEndOff p - pesStartOff p)

/-- A data identifier in [0x10, 0x1F] (R65, R147). -/
def dataIdOk (d : Byte) : Bool := decide (0x10 ≤ d.toNat ∧ d.toNat ≤ 0x1F)

/-! Data-unit slot U and its data field `D = U[2..45]` (R67, R68, R164). -/

/-- A data-unit id in {0x02, 0x03} (R67). -/
def duIdOk (d : Byte) : Bool := d == 0x02 || d == 0x03

/-- `FP = D[0][5]`. -/
def slotParity (u : List Byte) : BitVec 1 := (byteAt u 2).extractLsb' 5 1

/-- `OFF = D[0][4:0]`. -/
def slotOffset (u : List Byte) : BitVec 5 := (byteAt u 2).setWidth 5

/-- The line payload `D[2..43]`, which is `U[4..45]`. -/
def slotLine (u : List Byte) : Line := Block.tabulate fun c => byteAt u (4 + c.val)

/-- The line offset `r + 7` of a Field Buffer row r (R27). -/
def rowOffset (row : Fin 16) : BitVec 5 := BitVec.ofNat 5 (row.val + 7)

end Sys2Proof.Machine
end

