-- ==== Sys2Proof/Syntax.lean ====
section
/-! DEFINITION. The operations of the block, one constructor per row of spec/opcode_table.json (00_scope.md R2: the operations
are the block's "instructions"). Each constructor carries the operands its rule names, already taken out of the bytes. -/

set_option autoImplicit false

namespace Sys2Proof

/-- One operation with its operands. A line offset that passed the range check of R165 stands as its Field Buffer row
(`OFF = row + 7`, R68), so an offset outside 7..22 cannot be written. -/
inductive Instr where
  /-- IN_BYTE: the source offers byte `b` (R200). -/
  | inByte (b : Byte)
  /-- OUT_FRAME: the sink takes the head of `OUTQ` (R201). -/
  | outFrame
  /-- DIAG_EVENT: one diagnostic record on the diagnostic port (R203). -/
  | diagEvent (d : Diag)
  /-- CANCEL (R205). -/
  | cancel
  /-- STATUS_READ (R206). -/
  | statusRead
  /-- RESET with its 13-bit operand (R250). -/
  | reset (pid : Pid)
  /-- TS_SYNC_ERR: the operand is `SB[0]` (R103). -/
  | tsSyncErr (sync : Byte)
  /-- TS_PID_SKIP: the operand is the stride's PID (R104). -/
  | tsPidSkip (pid : Pid)
  /-- TS_AFC0_NOPAYLOAD (R106). -/
  | tsAfc0NoPayload
  /-- TS_AFC1_PAYLOAD: PUSI and `SB[4..187]` (R107). -/
  | tsAfc1Payload (pusi : Bool) (payload : List Byte)
  /-- TS_AFC2_NOPAYLOAD (R108). -/
  | tsAfc2NoPayload
  /-- TS_AFC3_PAYLOAD: PUSI, `L = SB[4]` and `SB[5..187]` (R109). -/
  | tsAfc3Payload (pusi : Bool) (len : Byte) (rest : List Byte)
  /-- PES_START: the payload of a fragment with `is_start = 1` (R121). -/
  | pesStart (payload : List Byte)
  /-- PES_CONT_APPEND (R122). -/
  | pesContAppend (payload : List Byte)
  /-- PES_CONT_DISCARD (R123). -/
  | pesContDiscard (payload : List Byte)
  /-- PES_OVERFLOW (R126). -/
  | pesOverflow
  /-- PES_REJ_SHORT: `len(P)` (R142). -/
  | pesRejShort (len : Nat)
  /-- PES_REJ_PREFIX: the 24-bit prefix (R143). -/
  | pesRejPrefix (pre : BitVec 24)
  /-- PES_REJ_STREAMID: the stream id (R144). -/
  | pesRejStreamId (sid : Byte)
  /-- PES_REJ_TRUNC: PKTLEN (R145). -/
  | pesRejTrunc (pktLen : BitVec 16)
  /-- PES_REJ_EMPTY (R146). -/
  | pesRejEmpty
  /-- PES_REJ_DATAID: the data identifier (R147). -/
  | pesRejDataId (dataId : Byte)
  /-- PES_ACCEPT: the data region `P[START..END-1]` (R148). -/
  | pesAccept (region : List Byte)
  /-- DU_TAIL_DROP: how many bytes of the region are left, fewer than a slot (R161). -/
  | duTailDrop (left : Nat)
  /-- DU_SKIP_ID: the data-unit id (R162). -/
  | duSkipId (duId : Byte)
  /-- DU_SKIP_SHORT, which the decode tree never selects (R163). -/
  | duSkipShort
  /-- DU_REJ_OFFSET: the line offset outside 7..22 (R165). -/
  | duRejOffset (off : BitVec 5)
  /-- DU_FIELD_FLIP: the unit's field parity, its row and its line payload (R167). -/
  | duFieldFlip (fp : BitVec 1) (row : Fin 16) (line : Line)
  /-- DU_LINE_DECREASING: the unit's row and its line payload (R168). -/
  | duLineDecreasing (row : Fin 16) (line : Line)
  /-- DU_LINE: the unit's row and its line payload (R171). -/
  | duLine (row : Fin 16) (line : Line)
  /-- BITREV: one byte (R191). -/
  | bitrev (b : Byte)
  deriving DecidableEq, Repr

end Sys2Proof
end

