-- ==== Sys2Proof/WellFormed.lean ====
section
/-! DEFINITION. What the encoding of an operation demands of its operands (`WellFormed`, from the "Encoding" line of each rule)
and of the state it is selected in (`selectedBy`, the comparisons of 30_encoding.md R71 with CFG_PID, P_SYNC_BYTE, PARITY and LAST_OFF). -/

set_option autoImplicit false

namespace Sys2Proof

open Sys2Proof.Machine

/-- The operands an operation can have whatever the state. -/
def WellFormed : Instr → Bool
  | .inByte _ => true
  | .outFrame => true
  | .diagEvent _ => true
  | .cancel => true
  | .statusRead => true
  | .reset _ => true
  | .tsSyncErr _ => true
  | .tsPidSkip _ => true
  | .tsAfc0NoPayload => true
  | .tsAfc1Payload _ payload => decide (payload.length = 184)
  | .tsAfc2NoPayload => true
  | .tsAfc3Payload _ _ rest => decide (rest.length = 183)
  | .pesStart payload => decide (payload.length ≤ 184)
  | .pesContAppend payload => decide (payload.length ≤ 184)
  | .pesContDiscard payload => decide (payload.length ≤ 184)
  | .pesOverflow => true
  | .pesRejShort len => decide (1 ≤ len ∧ len < 9)
  | .pesRejPrefix pre => decide (pre ≠ 1)
  | .pesRejStreamId sid => decide (sid ≠ 0xBD)
  | .pesRejTrunc pktLen => decide (3 < pktLen.toNat)
  | .pesRejEmpty => true
  | .pesRejDataId d => !dataIdOk d
  | .pesAccept region => decide (region ≠ []) && dataIdOk (byteAt region 0)
  | .duTailDrop left => decide (left < 46)
  | .duSkipId d => !duIdOk d
  | .duSkipShort => true
  | .duRejOffset off => decide (off.toNat < 7 ∨ 22 < off.toNat)
  | .duFieldFlip _ _ _ => true
  | .duLineDecreasing _ _ => true
  | .duLine _ _ => true
  | .bitrev _ => true

/-- The comparison with the state that the decode tree makes before it selects the operation (R71). -/
def selectedBy (c : Ctx) : Instr → Bool
  | .inByte _ => true
  | .outFrame => true
  | .diagEvent _ => true
  | .cancel => true
  | .statusRead => true
  | .reset _ => true
  | .tsSyncErr sync => decide (sync ≠ c.sync)
  | .tsPidSkip pid => decide (pid ≠ c.pid)
  | .tsAfc0NoPayload => true
  | .tsAfc1Payload _ _ => true
  | .tsAfc2NoPayload => true
  | .tsAfc3Payload _ _ _ => true
  | .pesStart _ => true
  | .pesContAppend _ => true
  | .pesContDiscard _ => true
  | .pesOverflow => true
  | .pesRejShort _ => true
  | .pesRejPrefix _ => true
  | .pesRejStreamId _ => true
  | .pesRejTrunc _ => true
  | .pesRejEmpty => true
  | .pesRejDataId _ => true
  | .pesAccept _ => true
  | .duTailDrop _ => true
  | .duSkipId _ => true
  | .duSkipShort => true
  | .duRejOffset _ => true
  | .duFieldFlip fp _ _ => decide (fp ≠ c.parity)
  | .duLineDecreasing row _ => decide ((rowOffset row).toNat < c.lastOff.toNat)
  | .duLine row _ => decide (c.lastOff.toNat ≤ (rowOffset row).toNat)
  | .bitrev _ => true

end Sys2Proof
end

