-- ==== Sys2Proof/Decode.lean ====
section
/-! DEFINITION. The decode tree (30_encoding.md R71): which operation a stride, a fragment, a candidate PES packet or a slot
position selects, and which operation a port request is; then `decode`, total on any bytes of any format; then `encode`. -/

set_option autoImplicit false

namespace Sys2Proof

open Sys2Proof.Machine

/-! ## The stages of the decode tree -/

/-- The six operations a complete stride selects one of (R102). -/
inductive StrideOp where
  | syncErr (sync : Byte)
  | pidSkip (pid : Pid)
  | afc0
  | afc1 (pusi : Bool) (payload : List Byte)
  | afc2
  | afc3 (pusi : Bool) (len : Byte) (rest : List Byte)
  deriving DecidableEq, Repr

/-- The three operations a fragment selects one of (R120). -/
inductive FragmentOp where
  | start (payload : List Byte)
  | contAppend (payload : List Byte)
  | contDiscard (payload : List Byte)
  deriving DecidableEq, Repr

/-- The seven operations a candidate PES packet selects one of (R140). -/
inductive PacketOp where
  | rejShort (len : Nat)
  | rejPrefix (pre : BitVec 24)
  | rejStreamId (sid : Byte)
  | rejTrunc (pktLen : BitVec 16)
  | rejEmpty
  | rejDataId (dataId : Byte)
  | accept (region : List Byte)
  deriving DecidableEq, Repr

/-- The seven operations a slot position selects one of (R160, R166). -/
inductive SlotOp where
  | tailDrop (left : Nat)
  | skipId (duId : Byte)
  | skipShort
  | rejOffset (off : BitVec 5)
  | fieldFlip (fp : BitVec 1) (row : Fin 16) (line : Line)
  | lineDecreasing (row : Fin 16) (line : Line)
  | lineInOrder (row : Fin 16) (line : Line)
  deriving DecidableEq, Repr

/-- The operation of the opcode table a stride's class is. -/
def StrideOp.instr : StrideOp → Instr
  | .syncErr sync => .tsSyncErr sync
  | .pidSkip pid => .tsPidSkip pid
  | .afc0 => .tsAfc0NoPayload
  | .afc1 pusi payload => .tsAfc1Payload pusi payload
  | .afc2 => .tsAfc2NoPayload
  | .afc3 pusi len rest => .tsAfc3Payload pusi len rest

/-- The operation of the opcode table a fragment's class is. -/
def FragmentOp.instr : FragmentOp → Instr
  | .start payload => .pesStart payload
  | .contAppend payload => .pesContAppend payload
  | .contDiscard payload => .pesContDiscard payload

/-- The operation of the opcode table a candidate packet's class is. -/
def PacketOp.instr : PacketOp → Instr
  | .rejShort len => .pesRejShort len
  | .rejPrefix pre => .pesRejPrefix pre
  | .rejStreamId sid => .pesRejStreamId sid
  | .rejTrunc pktLen => .pesRejTrunc pktLen
  | .rejEmpty => .pesRejEmpty
  | .rejDataId dataId => .pesRejDataId dataId
  | .accept region => .pesAccept region

/-- The operation of the opcode table a slot position's class is. -/
def SlotOp.instr : SlotOp → Instr
  | .tailDrop left => .duTailDrop left
  | .skipId duId => .duSkipId duId
  | .skipShort => .duSkipShort
  | .rejOffset off => .duRejOffset off
  | .fieldFlip fp row line => .duFieldFlip fp row line
  | .lineDecreasing row line => .duLineDecreasing row line
  | .lineInOrder row line => .duLine row line

/-- The stride checks in their order: sync, PID, AFC (R102). -/
def decodeStride (c : Ctx) (sb : Stride) : StrideOp :=
  if syncField sb ≠ c.sync then .syncErr (syncField sb)
  else if pidField sb ≠ c.pid then .pidSkip (pidField sb)
  else if afcField sb = 0 then .afc0
  else if afcField sb = 1 then .afc1 (pusiField sb) (slice sb.toList 4 187)
  else if afcField sb = 2 then .afc2
  else .afc3 (pusiField sb) (sb.get 4) (slice sb.toList 5 187)

/-- The fragment dispatch on `is_start` and `PES_ACTIVE` (R120). -/
def decodeFragment (isStart active : Bool) (payload : List Byte) : FragmentOp :=
  if isStart then .start payload
  else if active then .contAppend payload
  else .contDiscard payload

/-- The parser's checks in their order (R140). -/
def decodePacket (p : List Byte) : PacketOp :=
  if p.length < 9 then .rejShort p.length
  else if pesPrefix p ≠ 1 then .rejPrefix (pesPrefix p)
  else if pesStreamId p ≠ 0xBD then .rejStreamId (pesStreamId p)
  else if p.length < pesEndOff p then .rejTrunc (pesPktLen p)
  else if pesEndOff p ≤ pesStartOff p then .rejEmpty
  else if !dataIdOk (byteAt p (pesStartOff p)) then .rejDataId (byteAt p (pesStartOff p))
  else .accept (pesRegion p)

/-- The checks on one slot position (R160, R166); `rest` is the region from this slot's base on, so that
`base + 46 > len(R)` is `rest.length < 46`. -/
def decodeSlot (c : Ctx) (rest : List Byte) : SlotOp :=
  if rest.length < 46 then .tailDrop rest.length
  else
    let u := rest.take 46
    if !duIdOk (byteAt u 0) then .skipId (byteAt u 0)
    else if (u.drop 2).length < 44 then .skipShort
    else if h : 7 ≤ (slotOffset u).toNat ∧ (slotOffset u).toNat ≤ 22 then
      let row : Fin 16 := ⟨(slotOffset u).toNat - 7, by omega⟩
      if slotParity u ≠ c.parity then .fieldFlip (slotParity u) row (slotLine u)
      else if (slotOffset u).toNat < c.lastOff.toNat then .lineDecreasing row (slotLine u)
      else .lineInOrder row (slotLine u)
    else .rejOffset (slotOffset u)

/-! ## Diagnostic records (R70, R221) -/

/-- The 8-bit code of a diagnostic (R221). -/
def diagCode : Diag → Byte
  | .syncMissing _ => 0x01
  | .pesTooShort _ => 0x02
  | .pesNoPrefix _ => 0x03
  | .pesBadStreamId _ => 0x04
  | .pesTruncated _ => 0x05
  | .lineOffsetInvalid _ => 0x06
  | .lineOffsetDecreasing _ _ => 0x07
  | .pesOverflow => 0x08

/-- Its arguments, at most two fields of at most 24 bits (R70, R221). -/
def diagArgs : Diag → List (BitVec 24)
  | .syncMissing sync => [sync.setWidth 24]
  | .pesTooShort len => [len]
  | .pesNoPrefix pre => [pre]
  | .pesBadStreamId sid => [sid.setWidth 24]
  | .pesTruncated pktLen => [pktLen.setWidth 24]
  | .lineOffsetInvalid off => [off.setWidth 24]
  | .lineOffsetDecreasing off last => [off.setWidth 24, last.setWidth 24]
  | .pesOverflow => []

/-- The diagnostic a code and its arguments name, if the code is not reserved and takes that many arguments (R221). -/
def diagOf (code : Byte) (args : List (BitVec 24)) : Option Diag :=
  match args with
  | [] => if code = 0x08 then some .pesOverflow else none
  | [a] =>
    if code = 0x01 then some (.syncMissing (a.setWidth 8))
    else if code = 0x02 then some (.pesTooShort a)
    else if code = 0x03 then some (.pesNoPrefix a)
    else if code = 0x04 then some (.pesBadStreamId (a.setWidth 8))
    else if code = 0x05 then some (.pesTruncated (a.setWidth 16))
    else if code = 0x06 then some (.lineOffsetInvalid (a.setWidth 5))
    else none
  | [a, b] => if code = 0x07 then some (.lineOffsetDecreasing (a.setWidth 5) (b.setWidth 5)) else none
  | _ => none

/-! ## Formats and the whole decoder -/

/-- Where a unit stands: the "format" column of the opcode table, PORT_CTRL split into its three requests because the table
gives them no selector (log entry 7). -/
inductive Format where
  | portIn | portOut | portDiag | portCancel | portStatus | portReset
  | tsPacket | fragment | pesPacket | duSlot | lut
  deriving DecidableEq, Repr

/-- Why the decoder refuses a unit. -/
inductive DecodeError where
  /-- The format's unit has another length (R47, R60, R64). -/
  | wrongLength
  /-- Diagnostic codes 0x00 and 0x09 to 0xFF, or an argument list or value the code does not have (R221). -/
  | reservedDiag
  /-- A RESET operand above 0x1FFF (R250, I6). -/
  | pidTooWide
  /-- A fragment selector with a bit above bit 1 (the table's note on FRAGMENT). -/
  | badSelector
  deriving DecidableEq, Repr

/-- A byte as a 24-bit big-endian field's parts. -/
def bytes24 (v : BitVec 24) : List Byte :=
  [v.extractLsb' 16 8, v.extractLsb' 8 8, v.extractLsb' 0 8]

/-- A 16-bit value as two big-endian bytes. -/
def bytes16 (v : BitVec 16) : List Byte := [v.extractLsb' 8 8, v.extractLsb' 0 8]

/-- The record of a diagnostic as bytes: its code, then each argument as three big-endian bytes (log entry 7). -/
def diagBytes (d : Diag) : List Byte := diagCode d :: (diagArgs d).flatMap bytes24

/-- Read a diagnostic record; a value that does not fit its field is refused. -/
def decodeDiag (bs : List Byte) : Except DecodeError Instr :=
  let found : Option Diag := match bs with
    | [code] => diagOf code []
    | [code, a, b, c] => diagOf code [be24 a b c]
    | [code, a, b, c, x, y, z] => diagOf code [be24 a b c, be24 x y z]
    | _ => none
  match found with
  | some d => if diagBytes d = bs then .ok (.diagEvent d) else .error .reservedDiag
  | none => .error .reservedDiag

/-- A RESET request: a 16-bit big-endian operand that must not exceed 0x1FFF (R250). -/
def decodeReset (h l : Byte) : Except DecodeError Instr :=
  if (be16 h l).toNat ≤ 0x1FFF then .ok (.reset ((be16 h l).setWidth 13)) else .error .pidTooWide

/-- A fragment: the selector byte `W = is_start<<1 | PES_ACTIVE`, then 0 to 184 payload bytes. -/
def decodeFragmentUnit (w : Byte) (payload : List Byte) : Except DecodeError Instr :=
  if 4 ≤ w.toNat then .error .badSelector
  else if 184 < payload.length then .error .wrongLength
  else .ok (decodeFragment (w.getLsbD 1) (w.getLsbD 0) payload).instr

/-- A stride of exactly 188 bytes; a shorter or longer unit is no stride (R60). -/
def decodeStrideUnit (c : Ctx) (bs : List Byte) : Except DecodeError Instr :=
  if h : bs.length = 188 then .ok (decodeStride c ⟨bs, h⟩).instr
  else .error .wrongLength

/-- The operation the bytes `bs` presented in format `f` select in the context `c`, or the reason there is none. -/
def decode (c : Ctx) (f : Format) (bs : List Byte) : Except DecodeError Instr :=
  match f, bs with
  | .portIn, [b] => .ok (.inByte b)
  | .portIn, _ => .error .wrongLength
  | .portOut, [] => .ok .outFrame
  | .portOut, _ => .error .wrongLength
  | .portDiag, bs => decodeDiag bs
  | .portCancel, [] => .ok .cancel
  | .portCancel, _ => .error .wrongLength
  | .portStatus, [] => .ok .statusRead
  | .portStatus, _ => .error .wrongLength
  | .portReset, [h, l] => decodeReset h l
  | .portReset, _ => .error .wrongLength
  | .tsPacket, bs => decodeStrideUnit c bs
  | .fragment, w :: payload => decodeFragmentUnit w payload
  | .fragment, _ => .error .wrongLength
  | .pesPacket, [] => .error .wrongLength
  | .pesPacket, p => .ok (decodePacket p).instr
  | .duSlot, rest => .ok (decodeSlot c rest).instr
  | .lut, [b] => .ok (.bitrev b)
  | .lut, _ => .error .wrongLength

/-! ## The encoder (R61 to R68, with the defaults of the stream notation R75) -/

/-- The `TS` form of R75 with `tei=0` and `cc=0`: sync, PUSI and PID, AFC, then a 184-byte body. -/
def tsBytes (sync : Byte) (pusi : Bool) (pid : Pid) (afc : BitVec 2) (body : List Byte) : List Byte :=
  sync :: ((BitVec.ofBool false ++ (BitVec.ofBool pusi ++ (0#1 ++ pid.extractLsb' 8 5)) : BitVec 8)) ::
    pid.extractLsb' 0 8 :: ((0#2 ++ (afc ++ 0#4) : BitVec 8)) :: body

/-- The `PES` form of R75 with default flags and no header data. -/
def pesBytes (sid : Byte) (pktLen : BitVec 16) (data : List Byte) : List Byte :=
  [0x00, 0x00, 0x01, sid, pktLen.extractLsb' 8 8, pktLen.extractLsb' 0 8, 0x80, 0x00, 0x00] ++ data

/-- The `DU` form of R75 with its defaults id 02, ulen 2C, res 3, fc E4. -/
def duBytes (fp : BitVec 1) (off : BitVec 5) (line : Line) : List Byte :=
  [0x02, 0x2C, (0b11#2 ++ (fp ++ off) : BitVec 8), 0xE4] ++ line.toList

/-- `n` zero bytes. -/
def zeros (n : Nat) : List Byte := List.replicate n 0

/-- A unit that selects the operation in the context `c`; `none` for the two operations no unit selects (R126, R163). -/
def encode (c : Ctx) : Instr → Option (Format × List Byte)
  | .inByte b => some (.portIn, [b])
  | .outFrame => some (.portOut, [])
  | .diagEvent d => some (.portDiag, diagBytes d)
  | .cancel => some (.portCancel, [])
  | .statusRead => some (.portStatus, [])
  | .reset pid => some (.portReset, bytes16 (pid.setWidth 16))
  | .tsSyncErr sync => some (.tsPacket, sync :: zeros 187)
  | .tsPidSkip pid => some (.tsPacket, tsBytes c.sync false pid 0 (zeros 184))
  | .tsAfc0NoPayload => some (.tsPacket, tsBytes c.sync false c.pid 0 (zeros 184))
  | .tsAfc1Payload pusi payload => some (.tsPacket, tsBytes c.sync pusi c.pid 1 payload)
  | .tsAfc2NoPayload => some (.tsPacket, tsBytes c.sync false c.pid 2 (zeros 184))
  | .tsAfc3Payload pusi len rest => some (.tsPacket, tsBytes c.sync pusi c.pid 3 (len :: rest))
  | .pesStart payload => some (.fragment, 0b10 :: payload)
  | .pesContAppend payload => some (.fragment, 0b01 :: payload)
  | .pesContDiscard payload => some (.fragment, 0b00 :: payload)
  | .pesOverflow => none
  | .pesRejShort len => some (.pesPacket, zeros len)
  | .pesRejPrefix pre => some (.pesPacket, bytes24 pre ++ zeros 6)
  | .pesRejStreamId sid => some (.pesPacket, pesBytes sid 0 [])
  | .pesRejTrunc pktLen => some (.pesPacket, pesBytes 0xBD pktLen [])
  | .pesRejEmpty => some (.pesPacket, pesBytes 0xBD 0 [])
  | .pesRejDataId dataId => some (.pesPacket, pesBytes 0xBD 0 [dataId])
  | .pesAccept region => some (.pesPacket, pesBytes 0xBD 0 region)
  | .duTailDrop left => some (.duSlot, zeros left)
  | .duSkipId duId => some (.duSlot, duId :: zeros 45)
  | .duSkipShort => none
  | .duRejOffset off => some (.duSlot, duBytes c.parity off (Block.fill 42 0))
  | .duFieldFlip fp row line => some (.duSlot, duBytes fp (rowOffset row) line)
  | .duLineDecreasing row line => some (.duSlot, duBytes c.parity (rowOffset row) line)
  | .duLine row line => some (.duSlot, duBytes c.parity (rowOffset row) line)
  | .bitrev b => some (.lut, [b])

/-! ## The opcode table's numbering -/

/-- The `n` bytes of `w`, most significant first (the table's words H, Q and V are big-endian, R61). -/
def bigEndian (n w : Nat) : List Byte :=
  (List.range n).map fun i => BitVec.ofNat 8 (w / 256 ^ (n - 1 - i))

/-- The unit a table word stands for; the table's words do not say their port, so `nbits` and the match value choose it
(log entry 8). The bytes above `nbits` are zeros. -/
def tableUnit (nbits w : Nat) : Option (Format × List Byte) :=
  if nbits = 8 then
    if w < 4 then some (.fragment, BitVec.ofNat 8 w :: zeros 184) else some (.portIn, bigEndian 1 w)
  else if nbits = 16 then some (.portReset, bigEndian 2 w)
  else if nbits = 24 then some (.duSlot, bigEndian 3 w ++ zeros 43)
  else if nbits = 32 then
    if w / 256 = 1 then some (.pesPacket, bigEndian 4 w ++ zeros 6)
    else some (.tsPacket, bigEndian 4 w ++ zeros 184)
  else none

/-- The comparisons of the decode tree at reset: the default sync byte, and CFG_PID, PARITY and LAST_OFF all 0. -/
def resetCtx : Ctx := ⟨defaultSyncByte, 0, 0, 0⟩

/-- The operation the decoder reads from a table word. -/
def decodeTableWord (nbits w : Nat) : Option Instr :=
  match tableUnit nbits w with
  | some (f, bs) =>
    match decode resetCtx f bs with
    | .ok i => some i
    | .error _ => none
  | none => none

end Sys2Proof
end

