-- ==== Sys2Proof/Machine/State.lean ====
section
/-! DEFINITION. All state of the block (10_state.md R21 to R30), the host's side of its ports (45_host_interface.md R200 to R208) as plain data, the reasons
a step can stop, and the state after reset (70_reset_and_hazards.md R250). The block has no addressable memory (20_memory.md R40). -/

set_option autoImplicit false

namespace Sys2Proof.Machine

/-- The value an operation returned to whoever asked for it ("return" in the rules' pseudocode). It is the model's own record,
no state of the block (R31, R35); see log entry 6. -/
inductive Result where
  /-- No operation has returned a value yet. -/
  | none
  /-- STATUS_READ returned this byte (R206). -/
  | status (v : Byte)
  /-- BITREV returned this byte (R191). -/
  | reversed (v : Byte)
  /-- The parser rejected the candidate packet (R142 to R147). -/
  | reject
  /-- The parser accepted it and returned its data region (R148). -/
  | region (r : List Byte)
  deriving DecidableEq, Repr

/-- One turn of a host agent (R208). The observer needs no turn: it takes every diagnostic at once (R203). -/
inductive HostAct where
  /-- The source offers the first byte it still holds on the input port (R200). -/
  | offer
  /-- The sink is ready to take a frame (R201). -/
  | take
  /-- The controller requests CANCEL (R205). -/
  | cancel
  /-- The controller reads STATUS (R206). -/
  | readStatus
  /-- The controller requests RESET with this operand, which may be too wide (R250, I6). -/
  | reset (pid : BitVec 16)
  deriving DecidableEq, Repr

/-- Everything the spec gives the block, and then the host's side and the model's own fields. -/
structure State where
  /-- The instance's fixed parameters (R6 to R9, R250). -/
  params : Params
  /-- `CFG_PID` (R21). -/
  cfgPid : Pid
  /-- `SB`, the stride buffer (R22). -/
  sb : Stride
  /-- `SB_CNT`, 0..187 (R22). -/
  sbCnt : Fin 188
  /-- `PB`, the PES buffer (R23). -/
  pb : List Byte
  /-- `PES_ACTIVE` (R24). -/
  pesActive : Bool
  /-- `PARITY` (R25). -/
  parity : BitVec 1
  /-- `LAST_OFF` (R26). -/
  lastOff : BitVec 5
  /-- `FB`, the Field Buffer (R27). -/
  fb : FieldBuffer
  /-- `OUTQ`, oldest frame first (R28). -/
  outq : List Frame
  /-- `STATUS.HALTED` (R29). -/
  halted : Bool
  /-- `STATUS.OVF` (R29, R232). -/
  ovf : Bool
  /-- Whether a RESET has happened since power-up (R252; DESIGN CHOICE, log entry 19). -/
  configured : Bool
  /-- `TRACE`, oldest event first: the observation since the last RESET (R204; log entry 12). -/
  trace : List Event
  /-- The frames the sink has taken since the last RESET, oldest first (R201, R204; log entry 12). -/
  taken : List Frame
  /-- The value the last returning operation returned (log entry 6). -/
  result : Result
  /-- The bytes the source still holds, in transmission order (R200, R208; log entry 10). -/
  offered : List Byte
  /-- The turns the host's agents still have, in the order they are taken (R208; log entry 10). -/
  agenda : List HostAct
  /-- How many RESETs have drawn a free `SB` (log entry 2): the model's own counter. -/
  draws : Nat
  deriving DecidableEq, Repr

/-- Reasons the machine itself stops. There is none: "No input value stops the block" (60_exceptions.md R220), and the sticky
fault `OVF` (R232) is a state in which OUT_FRAME, STATUS_READ, CANCEL and RESET still work, so it is a next state. -/
inductive Fault where
  deriving DecidableEq, Repr

/-- Reasons a step has no meaning. -/
inductive Refusal where
  /-- Raised by an arm of exec for an instruction that has no meaning yet; safe. No arm raises it. -/
  | notModelled (mnemonic : String)
  /-- Raised by IN_BYTE, OUT_FRAME, CANCEL and STATUS_READ before the first RESET (R252: "A model refuses"); safe. -/
  | beforeReset
  /-- Raised by the step for a host request the decoder refuses, such as a RESET operand above 0x1FFF (I6: "refuse"); safe. -/
  | undecodable (reason : DecodeError)
  deriving DecidableEq, Repr

/-- The Field Buffer with every byte 0x00 (R27, R167). -/
def zeroFieldBuffer : FieldBuffer := Block.fill 16 (Block.fill 42 0)

/-- An instance with parameters `p` right after its first RESET with `pid` (R250), with nothing placed on its ports. The contents
of `SB` are unspecified; this state names zeros (log entry 3). -/
def State.resetOf (p : Params) (pid : Pid) : State where
  params := p
  cfgPid := pid
  sb := Block.fill 188 0
  sbCnt := 0
  pb := []
  pesActive := false
  parity := p.initParity
  lastOff := 0
  fb := zeroFieldBuffer
  outq := []
  halted := false
  ovf := false
  configured := true
  trace := []
  taken := []
  result := .none
  offered := []
  agenda := []
  draws := 0

/-- The parameters at their defaults (R6, R8, R9), `P_INIT_PARITY` at 0 as in the spec's test vectors (R7, log entry 1). -/
def defaultParams : Params := ⟨defaultSyncByte, 0, none, true⟩

/-- The machine right after reset: default parameters, PID 0 (log entry 1). -/
def State.reset : State := State.resetOf defaultParams 0

end Sys2Proof.Machine
end

