-- ==== Sys2Proof/Machine/Flags.lean ====
section
/-! DEFINITION. The status flags (10_state.md R29, R33): IN_READY, the STATUS byte, and what the decode tree compares with. -/

set_option autoImplicit false

namespace Sys2Proof.Machine

/-- `IN_READY = (HALTED = 0) and (OVF = 0) and (OUTQ is empty)` (R200). -/
def State.inReady (s : State) : Bool := !s.halted && !s.ovf && s.outq.isEmpty

/-- The STATUS byte: HALTED in bit 0, OVF in bit 1, IN_READY in bit 2, bits 7:3 zero (R29). -/
def State.status (s : State) : Byte :=
  0#5 ++ (BitVec.ofBool s.inReady ++ (BitVec.ofBool s.ovf ++ BitVec.ofBool s.halted))

/-- What the decode tree compares its input with (R71). -/
def State.ctx (s : State) : Ctx := ⟨s.params.syncByte, s.cfgPid, s.parity, s.lastOff⟩

end Sys2Proof.Machine
end

