-- ==== Sys2Proof/Machine/Ops.lean ====
section
/-! DEFINITION. The shared operations over the state: the pseudocode primitives of 00_scope.md R15 and the field-buffer operations of
43_teletext_decoder.md. The block has no trap entry and no return from one (60_exceptions.md R226, R227); raising the fault `OVF` is `raiseOvf`. -/

set_option autoImplicit false

namespace Sys2Proof.Machine

/-- `diag(CODE, args)`: append the event to TRACE; no block state changes (R15, R203). -/
def State.diag (s : State) (d : Diag) : State := { s with trace := s.trace ++ [.diag d] }

/-- `emit_frame(F)`: append F to OUTQ and to TRACE (R15, R202). -/
def State.emitFrame (s : State) (f : Frame) : State :=
  { s with outq := s.outq ++ [f], trace := s.trace ++ [.frame f] }

/-- `raise Fault(OVF)`: set the sticky bit (R15, R232). -/
def State.raiseOvf (s : State) : State := { s with ovf := true }

/-- Record the value an operation returns (log entry 6). -/
def State.returns (s : State) (r : Result) : State := { s with result := r }

/-- Frame byte i is `FB[i div 42][i mod 42]` (R44). -/
def serialise (fb : FieldBuffer) : Frame :=
  Block.tabulate fun i => (fb.get ⟨i.val / 42, by omega⟩).get ⟨i.val % 42, by omega⟩

/-- The 42 bytes `REV(D[2 + c])` (R169). -/
def reverseLine (d : Line) : Line := Block.tabulate fun c => rev (d.get c)

/-- `WriteLine(OFF, D)` and then `LAST_OFF <- OFF`: the line's bytes reversed into its row (R169, R170). -/
def State.writeLine (s : State) (row : Fin 16) (line : Line) : State :=
  { s with fb := s.fb.set row (reverseLine line), lastOff := rowOffset row }

/-- The contents of SB after the n-th RESET: any value (R22, R250, log entry 2). -/
def freeStride (n : Nat) : Stride := Block.tabulate fun i => Config.freeByte n i.val

end Sys2Proof.Machine
end

