-- ==== Sys2Proof/Machine/PesParser.lean ====
section
/-! DEFINITION. The PES Header Parser (42_pes_header_parser.md R140 to R148): the effect of each of its seven operations on the
state. Which one a packet selects is `decodePacket`; what it returns to its caller stands in the exec meanings. -/

set_option autoImplicit false

namespace Sys2Proof.Machine

/-- PES_REJ_SHORT (R142). -/
def pesRejShort (len : Nat) (s : State) : State := s.diag (.pesTooShort (BitVec.ofNat 24 len))

/-- PES_REJ_PREFIX (R143). -/
def pesRejPrefix (pre : BitVec 24) (s : State) : State := s.diag (.pesNoPrefix pre)

/-- PES_REJ_STREAMID (R144). -/
def pesRejStreamId (sid : Byte) (s : State) : State := s.diag (.pesBadStreamId sid)

/-- PES_REJ_TRUNC (R145). -/
def pesRejTrunc (pktLen : BitVec 16) (s : State) : State := s.diag (.pesTruncated pktLen)

/-- PES_REJ_EMPTY: silent (R146). -/
def pesRejEmpty (s : State) : State := s

/-- PES_REJ_DATAID: silent (R147). -/
def pesRejDataId (_dataId : Byte) (s : State) : State := s

/-- PES_ACCEPT: no state written; the caller decodes the region (R148). -/
def pesAccept (_region : List Byte) (s : State) : State := s

/-- PES_REJ_SHORT returns reject. -/
def execPesRejShort (len : Nat) (s : State) : Host.Outcome State Fault Refusal :=
  .next ((pesRejShort len s).returns .reject)

/-- PES_REJ_PREFIX returns reject. -/
def execPesRejPrefix (pre : BitVec 24) (s : State) : Host.Outcome State Fault Refusal :=
  .next ((pesRejPrefix pre s).returns .reject)

/-- PES_REJ_STREAMID returns reject. -/
def execPesRejStreamId (sid : Byte) (s : State) : Host.Outcome State Fault Refusal :=
  .next ((pesRejStreamId sid s).returns .reject)

/-- PES_REJ_TRUNC returns reject. -/
def execPesRejTrunc (pktLen : BitVec 16) (s : State) : Host.Outcome State Fault Refusal :=
  .next ((pesRejTrunc pktLen s).returns .reject)

/-- PES_REJ_EMPTY returns reject. -/
def execPesRejEmpty (s : State) : Host.Outcome State Fault Refusal := .next ((pesRejEmpty s).returns .reject)

/-- PES_REJ_DATAID returns reject. -/
def execPesRejDataId (dataId : Byte) (s : State) : Host.Outcome State Fault Refusal :=
  .next ((pesRejDataId dataId s).returns .reject)

/-- PES_ACCEPT returns the data region. -/
def execPesAccept (region : List Byte) (s : State) : Host.Outcome State Fault Refusal :=
  .next ((pesAccept region s).returns (.region region))

end Sys2Proof.Machine
end

