-- ==== Sys2Proof/Machine/Teletext.lean ====
section
/-! DEFINITION. The Teletext Field Decoder (43_teletext_decoder.md R160 to R174): its seven operations and the data-unit walker. -/

set_option autoImplicit false

namespace Sys2Proof.Machine

/-- DU_TAIL_DROP: `return`, which ends the walk (R161). -/
def duTailDrop (_left : Nat) (s : State) : State := s

/-- DU_SKIP_ID: `return` (R162). -/
def duSkipId (_duId : Byte) (s : State) : State := s

/-- DU_SKIP_SHORT: `return` (R163). -/
def duSkipShort (s : State) : State := s

/-- DU_REJ_OFFSET: one diagnostic, nothing else (R165). -/
def duRejOffset (off : BitVec 5) (s : State) : State := s.diag (.lineOffsetInvalid off)

/-- DU_FIELD_FLIP: emit the Field Buffer, take the new parity, clear FB and LAST_OFF, write the line (R167). -/
def duFieldFlip (fp : BitVec 1) (row : Fin 16) (line : Line) (s : State) : State :=
  { s.emitFrame (serialise s.fb) with parity := fp, fb := zeroFieldBuffer, lastOff := 0 }.writeLine row line

/-- DU_LINE_DECREASING: the diagnostic with the old LAST_OFF, and the line is still written (R168). -/
def duLineDecreasing (row : Fin 16) (line : Line) (s : State) : State :=
  (s.diag (.lineOffsetDecreasing (rowOffset row) s.lastOff)).writeLine row line

/-- DU_LINE: write the line (R171). -/
def duLine (row : Fin 16) (line : Line) (s : State) : State := s.writeLine row line

/-- The operation one slot position selected. -/
def runSlot (op : SlotOp) (s : State) : State :=
  match op with
  | .tailDrop left => duTailDrop left s
  | .skipId duId => duSkipId duId s
  | .skipShort => duSkipShort s
  | .rejOffset off => duRejOffset off s
  | .fieldFlip fp row line => duFieldFlip fp row line s
  | .lineDecreasing row line => duLineDecreasing row line s
  | .lineInOrder row line => duLine row line s

/-- The loop of R160 over the bytes from the next slot on; `fuel` bounds the number of slots. -/
def walkSlots (fuel : Nat) (rest : List Byte) (s : State) : State :=
  match fuel with
  | 0 => s
  | n + 1 =>
    if rest.length < 46 then runSlot (decodeSlot s.ctx rest) s
    else walkSlots n (rest.drop 46) (runSlot (decodeSlot s.ctx rest) s)

/-- `TT_DecodeRegion(R)`: the walk starts after the data identifier (R160); a region has fewer slots than bytes. -/
def decodeRegion (region : List Byte) (s : State) : State :=
  walkSlots region.length (region.drop 1) s

/-- DU_TAIL_DROP. -/
def execDuTailDrop (left : Nat) (s : State) : Host.Outcome State Fault Refusal := .next (duTailDrop left s)

/-- DU_SKIP_ID. -/
def execDuSkipId (duId : Byte) (s : State) : Host.Outcome State Fault Refusal := .next (duSkipId duId s)

/-- DU_SKIP_SHORT; the decode tree never selects it (log entry 9). -/
def execDuSkipShort (s : State) : Host.Outcome State Fault Refusal := .next (duSkipShort s)

/-- DU_REJ_OFFSET. -/
def execDuRejOffset (off : BitVec 5) (s : State) : Host.Outcome State Fault Refusal := .next (duRejOffset off s)

/-- DU_FIELD_FLIP. -/
def execDuFieldFlip (fp : BitVec 1) (row : Fin 16) (line : Line) (s : State) : Host.Outcome State Fault Refusal :=
  .next (duFieldFlip fp row line s)

/-- DU_LINE_DECREASING. -/
def execDuLineDecreasing (row : Fin 16) (line : Line) (s : State) : Host.Outcome State Fault Refusal :=
  .next (duLineDecreasing row line s)

/-- DU_LINE. -/
def execDuLine (row : Fin 16) (line : Line) (s : State) : Host.Outcome State Fault Refusal := .next (duLine row line s)

end Sys2Proof.Machine
end

