-- ==== Sys2Proof/Machine/PesReassembler.lean ====
section
/-! DEFINITION. The PES Reassembler (41_pes_reassembler.md R120 to R127). -/

set_option autoImplicit false

namespace Sys2Proof.Machine

/-- `PES_Deliver(Q)`: parse, and decode the region of an accepted packet (R124). -/
def pesDeliver (q : List Byte) (s : State) : State :=
  match decodePacket q with
  | .rejShort len => pesRejShort len s
  | .rejPrefix pre => pesRejPrefix pre s
  | .rejStreamId sid => pesRejStreamId sid s
  | .rejTrunc pktLen => pesRejTrunc pktLen s
  | .rejEmpty => pesRejEmpty s
  | .rejDataId dataId => pesRejDataId dataId s
  | .accept region => decodeRegion region (pesAccept region s)

/-- `P_PES_CAP != UNBOUNDED and n > P_PES_CAP` (R121, R122). -/
def State.overCap (s : State) (n : Nat) : Bool :=
  match s.params.pesCap with
  | none => false
  | some cap => decide (cap < n)

/-- PES_OVERFLOW: the diagnostic, the sticky fault, and PB and PES_ACTIVE cleared (R126). -/
def pesOverflow (s : State) : State :=
  { (s.diag .pesOverflow).raiseOvf with pb := [], pesActive := false }

/-- The first half of PES_START: a non-empty PB is emptied and delivered (R121). -/
def closePacket (s : State) : State :=
  if s.pb.isEmpty then s else pesDeliver s.pb { s with pb := [] }

/-- The second half of PES_START: the cap check, then PB takes the fragment (R121). -/
def openPacket (payload : List Byte) (s : State) : State :=
  if s.overCap payload.length then pesOverflow s
  else { s with pb := payload, pesActive := s.params.emptyStartOpens || !payload.isEmpty }

/-- PES_START (R121). -/
def pesStart (payload : List Byte) (s : State) : State := openPacket payload (closePacket s)

/-- PES_CONT_APPEND (R122). -/
def pesContAppend (payload : List Byte) (s : State) : State :=
  if s.overCap (s.pb.length + payload.length) then pesOverflow s
  else { s with pb := s.pb ++ payload }

/-- PES_CONT_DISCARD: the fragment is dropped (R123). -/
def pesContDiscard (_payload : List Byte) (s : State) : State := s

/-- `PES_Fragment(payload, is_start)` (R120). -/
def pesFragment (payload : List Byte) (isStart : Bool) (s : State) : State :=
  match decodeFragment isStart s.pesActive payload with
  | .start p => pesStart p s
  | .contAppend p => pesContAppend p s
  | .contDiscard p => pesContDiscard p s

/-- PES_START. -/
def execPesStart (payload : List Byte) (s : State) : Host.Outcome State Fault Refusal := .next (pesStart payload s)

/-- PES_CONT_APPEND. -/
def execPesContAppend (payload : List Byte) (s : State) : Host.Outcome State Fault Refusal :=
  .next (pesContAppend payload s)

/-- PES_CONT_DISCARD. -/
def execPesContDiscard (payload : List Byte) (s : State) : Host.Outcome State Fault Refusal :=
  .next (pesContDiscard payload s)

/-- PES_OVERFLOW. -/
def execPesOverflow (s : State) : Host.Outcome State Fault Refusal := .next (pesOverflow s)

end Sys2Proof.Machine
end

