-- ==== Sys2Proof/Machine/TsDemux.lean ====
section
/-! DEFINITION. The TS Demultiplexer (40_ts_demux.md R100 to R110). -/

set_option autoImplicit false

namespace Sys2Proof.Machine

/-- TS_SYNC_ERR: one diagnostic; no fragment (R103). -/
def tsSyncErr (sync : Byte) (s : State) : State := s.diag (.syncMissing sync)

/-- TS_PID_SKIP: nothing (R104). -/
def tsPidSkip (_pid : Pid) (s : State) : State := s

/-- TS_AFC0_NOPAYLOAD: nothing (R106). -/
def tsAfc0NoPayload (s : State) : State := s

/-- TS_AFC1_PAYLOAD: `PES_Fragment(SB[4..187], PUSI)` (R105, R107). -/
def tsAfc1Payload (pusi : Bool) (payload : List Byte) (s : State) : State := pesFragment payload pusi s

/-- TS_AFC2_NOPAYLOAD: nothing (R108). -/
def tsAfc2NoPayload (s : State) : State := s

/-- TS_AFC3_PAYLOAD: the bytes after the adaptation field, empty when L > 183 (R105, R109). -/
def tsAfc3Payload (pusi : Bool) (len : Byte) (rest : List Byte) (s : State) : State :=
  pesFragment (afc3Payload len rest) pusi s

/-- ProcessStride: the operation the complete stride in SB selects (R102). -/
def processStride (s : State) : State :=
  match decodeStride s.ctx s.sb with
  | .syncErr sync => tsSyncErr sync s
  | .pidSkip pid => tsPidSkip pid s
  | .afc0 => tsAfc0NoPayload s
  | .afc1 pusi payload => tsAfc1Payload pusi payload s
  | .afc2 => tsAfc2NoPayload s
  | .afc3 pusi len rest => tsAfc3Payload pusi len rest s

/-- STRIDE_ASSEMBLY(b): store the byte; the 188th starts the next stride and processes this one (R100). -/
def strideAssembly (b : Byte) (s : State) : State :=
  let sb := s.sb.set s.sbCnt b
  if h : s.sbCnt.val = 187 then processStride { s with sb := sb, sbCnt := 0 }
  else { s with sb := sb, sbCnt := ⟨s.sbCnt.val + 1, by omega⟩ }

/-- TS_SYNC_ERR. -/
def execTsSyncErr (sync : Byte) (s : State) : Host.Outcome State Fault Refusal := .next (tsSyncErr sync s)

/-- TS_PID_SKIP. -/
def execTsPidSkip (pid : Pid) (s : State) : Host.Outcome State Fault Refusal := .next (tsPidSkip pid s)

/-- TS_AFC0_NOPAYLOAD. -/
def execTsAfc0NoPayload (s : State) : Host.Outcome State Fault Refusal := .next (tsAfc0NoPayload s)

/-- TS_AFC1_PAYLOAD. -/
def execTsAfc1Payload (pusi : Bool) (payload : List Byte) (s : State) : Host.Outcome State Fault Refusal :=
  .next (tsAfc1Payload pusi payload s)

/-- TS_AFC2_NOPAYLOAD. -/
def execTsAfc2NoPayload (s : State) : Host.Outcome State Fault Refusal := .next (tsAfc2NoPayload s)

/-- TS_AFC3_PAYLOAD. -/
def execTsAfc3Payload (pusi : Bool) (len : Byte) (rest : List Byte) (s : State) : Host.Outcome State Fault Refusal :=
  .next (tsAfc3Payload pusi len rest s)

end Sys2Proof.Machine
end

