-- ==== Sys2Proof/Machine/HostPort.lean ====
section
/-! DEFINITION. The host transactions: IN_BYTE, OUT_FRAME, DIAG_EVENT, CANCEL, STATUS_READ (45_host_interface.md R200 to R206) and
RESET (70_reset_and_hazards.md R250, R252). -/

set_option autoImplicit false

namespace Sys2Proof.Machine

/-- RESET: every state element at its reset value, a new trace (R250). SB is any value (log entry 2). -/
def resetBlock (pid : Pid) (s : State) : State :=
  { s with
    cfgPid := pid
    sb := freeStride s.draws
    sbCnt := 0
    pb := []
    pesActive := false
    parity := s.params.initParity
    lastOff := 0
    fb := zeroFieldBuffer
    outq := []
    halted := false
    ovf := false
    configured := true
    trace := []
    taken := []
    draws := s.draws + 1 }

/-- A transaction other than RESET is refused before the first RESET (R252). -/
def whenConfigured (s : State) (t : State) : Host.Outcome State Fault Refusal :=
  if s.configured then .next t else .refused .beforeReset

/-- IN_BYTE: while IN_READY = 0 the byte stays with the source, neither lost nor reordered (R200; the waiting
turn as a step is a DESIGN CHOICE, log entry 11). -/
def execInByte (b : Byte) (s : State) : Host.Outcome State Fault Refusal :=
  whenConfigured s (if s.inReady then strideAssembly b s else { s with offered := b :: s.offered })

/-- The effect of OUT_FRAME: the head of OUTQ goes to the sink; with OUTQ empty the sink waits (R201,
log entry 11). -/
def takeFrame (s : State) : State :=
  match s.outq with
  | [] => s
  | f :: rest => { s with outq := rest, taken := s.taken ++ [f] }

/-- OUT_FRAME (R201). -/
def execOutFrame (s : State) : Host.Outcome State Fault Refusal := whenConfigured s (takeFrame s)

/-- DIAG_EVENT: the record enters the trace and is presented at once (R203, log entry 18). -/
def execDiagEvent (d : Diag) (s : State) : Host.Outcome State Fault Refusal := .next (s.diag d)

/-- CANCEL: `HALTED <- 1` (R205). -/
def execCancel (s : State) : Host.Outcome State Fault Refusal := whenConfigured s { s with halted := true }

/-- STATUS_READ: return STATUS; nothing of the block changes (R206). -/
def execStatusRead (s : State) : Host.Outcome State Fault Refusal := whenConfigured s (s.returns (.status s.status))

/-- RESET (R250). -/
def execReset (pid : Pid) (s : State) : Host.Outcome State Fault Refusal := .next (resetBlock pid s)

end Sys2Proof.Machine
end

