-- ==== Sys2Proof/Machine/Dispatch.lean ====
section
/-! DEFINITION. One arm per row of spec/opcode_table.json, each one call of that operation's own meaning. -/

namespace Sys2Proof.Machine

def exec (i : Instr) (s : State) : Host.Outcome State Fault Refusal :=
  match i with
  -- host transactions
  | .inByte b => Sys2Proof.Machine.execInByte b s
  | .outFrame => Sys2Proof.Machine.execOutFrame s
  | .diagEvent d => Sys2Proof.Machine.execDiagEvent d s
  | .cancel => Sys2Proof.Machine.execCancel s
  | .statusRead => Sys2Proof.Machine.execStatusRead s
  | .reset pid => Sys2Proof.Machine.execReset pid s
  -- TS Demultiplexer
  | .tsSyncErr sync => Sys2Proof.Machine.execTsSyncErr sync s
  | .tsPidSkip pid => Sys2Proof.Machine.execTsPidSkip pid s
  | .tsAfc0NoPayload => Sys2Proof.Machine.execTsAfc0NoPayload s
  | .tsAfc1Payload pusi payload => Sys2Proof.Machine.execTsAfc1Payload pusi payload s
  | .tsAfc2NoPayload => Sys2Proof.Machine.execTsAfc2NoPayload s
  | .tsAfc3Payload pusi len rest => Sys2Proof.Machine.execTsAfc3Payload pusi len rest s
  -- PES Reassembler
  | .pesStart payload => Sys2Proof.Machine.execPesStart payload s
  | .pesContAppend payload => Sys2Proof.Machine.execPesContAppend payload s
  | .pesContDiscard payload => Sys2Proof.Machine.execPesContDiscard payload s
  | .pesOverflow => Sys2Proof.Machine.execPesOverflow s
  -- PES Header Parser
  | .pesRejShort len => Sys2Proof.Machine.execPesRejShort len s
  | .pesRejPrefix pre => Sys2Proof.Machine.execPesRejPrefix pre s
  | .pesRejStreamId sid => Sys2Proof.Machine.execPesRejStreamId sid s
  | .pesRejTrunc pktLen => Sys2Proof.Machine.execPesRejTrunc pktLen s
  | .pesRejEmpty => Sys2Proof.Machine.execPesRejEmpty s
  | .pesRejDataId dataId => Sys2Proof.Machine.execPesRejDataId dataId s
  | .pesAccept region => Sys2Proof.Machine.execPesAccept region s
  -- Teletext Field Decoder
  | .duTailDrop left => Sys2Proof.Machine.execDuTailDrop left s
  | .duSkipId duId => Sys2Proof.Machine.execDuSkipId duId s
  | .duSkipShort => Sys2Proof.Machine.execDuSkipShort s
  | .duRejOffset off => Sys2Proof.Machine.execDuRejOffset off s
  | .duFieldFlip fp row line => Sys2Proof.Machine.execDuFieldFlip fp row line s
  | .duLineDecreasing row line => Sys2Proof.Machine.execDuLineDecreasing row line s
  | .duLine row line => Sys2Proof.Machine.execDuLine row line s
  -- Bit-Order Table
  | .bitrev b => Sys2Proof.Machine.execBitrev b s

end Sys2Proof.Machine
end

