-- ==== Sys2Proof/Machine/Fetch.lean ====
section
/-! DEFINITION. Where a step finds its next transaction: the next turn of the host's agents (45_host_interface.md R208). And how an
operation of an inner stage is placed so that the next IN_BYTE runs it. -/

set_option autoImplicit false

namespace Sys2Proof.Machine

/-- The request that the next turn puts on a port, if any, and the state with that turn (and an offered byte) taken off. With
no turn left, or nothing to offer, the block is idle (R234). -/
def fetch (s : State) : Option (Format × List Byte) × State :=
  match s.agenda with
  | [] => (none, s)
  | .offer :: rest =>
    match s.offered with
    | [] => (none, { s with agenda := rest })
    | b :: bs => (some (.portIn, [b]), { s with agenda := rest, offered := bs })
  | .take :: rest => (some (.portOut, []), { s with agenda := rest })
  | .cancel :: rest => (some (.portCancel, []), { s with agenda := rest })
  | .readStatus :: rest => (some (.portStatus, []), { s with agenda := rest })
  | .reset pid :: rest => (some (.portReset, bytes16 pid), { s with agenda := rest })

/-- All but the last byte of the stride `bs` received, the last one offered, the source's turn next, input enabled. -/
def State.placeStride (s : State) (bs : List Byte) : State :=
  { s with
    sb := Block.tabulate fun i => byteAt bs i.val
    sbCnt := 187
    offered := byteAt bs 187 :: s.offered
    agenda := .offer :: s.agenda
    outq := []
    halted := false
    ovf := false
    configured := true }

/-- The stride of the configured PID that carries a whole AFC = 1 fragment. -/
def State.placeFragment (s : State) (isStart active : Bool) (payload : List Byte) : State :=
  { s with pesActive := active }.placeStride (tsBytes s.params.syncByte isStart s.cfgPid 1 payload)

/-- The packet complete in PB, and the empty start fragment (AFC = 3, L = 183) that delivers it. -/
def State.placePacket (s : State) (p : List Byte) : State :=
  { s with pb := p, pesActive := true }.placeStride
    (tsBytes s.params.syncByte true s.cfgPid 3 (183 :: zeros 183))

/-- A region of one slot position in an accepted packet. -/
def State.placeSlot (s : State) (rest : List Byte) : State := s.placePacket (pesBytes 0xBD 0 (0x10 :: rest))

/-- The unit placed so that the very next step runs the operation it selects: a host request as the next turn; a unit of an
inner stage as the state in which the next input byte completes it (log entry 8). -/
def State.place (s : State) (f : Format) (bs : List Byte) : State :=
  match f with
  | .portIn => { s with offered := byteAt bs 0 :: s.offered, agenda := .offer :: s.agenda }
  | .portOut => { s with agenda := .take :: s.agenda }
  | .portDiag => s
  | .portCancel => { s with agenda := .cancel :: s.agenda }
  | .portStatus => { s with agenda := .readStatus :: s.agenda }
  | .portReset => { s with agenda := .reset (be16 (byteAt bs 0) (byteAt bs 1)) :: s.agenda }
  | .tsPacket => s.placeStride bs
  | .fragment => s.placeFragment ((byteAt bs 0).getLsbD 1) ((byteAt bs 0).getLsbD 0) (bs.drop 1)
  | .pesPacket => s.placePacket bs
  | .duSlot => s.placeSlot bs
  | .lut => s.placeSlot (duBytes s.parity 7 (Block.fill 42 (byteAt bs 0)))

end Sys2Proof.Machine
end

