-- ==== Sys2Proof/Machine/Step.lean ====
section
/-! DEFINITION. One step: the next turn of the host's agents, decoded from its port and run (20_memory.md R48: everything a stride
causes happens inside the one step that delivers its last byte). -/

set_option autoImplicit false

namespace Sys2Proof.Machine

/-- Take the next turn; with none, or nothing to offer, stay idle (R234). -/
def step (s : State) : Host.Outcome State Fault Refusal :=
  match fetch s with
  | (none, t) => .next t
  | (some (f, bs), t) =>
    match decode t.ctx f bs with
    | .ok i => exec i t
    | .error e => .refused (.undecodable e)

/-- `s` with the operation of a table word placed as the very next thing a step runs. -/
def State.withFetchWord (s : State) (nbits w : Nat) : State :=
  match tableUnit nbits w with
  | some (f, bs) => s.place f bs
  | none => s

end Sys2Proof.Machine
end

