-- ==== Sys2Proof/Safety.lean ====
section
/-! DEFINITION. What counts as a good state and a finished run: the invariants of 10_state.md R34, the faulted, stuck and finished
runs of 60_exceptions.md R232 and 70_reset_and_hazards.md R262, the fragment an operation hands to the reassembler with the frames
its delivery emits, and the trace a stream of bytes leads to (20_memory.md R50, R51). -/

set_option autoImplicit false

namespace Sys2Proof.Machine

/-- The `Frame` entries of a trace, in order (R204). -/
def framesOf : List Event → List Frame
  | [] => []
  | .frame f :: rest => f :: framesOf rest
  | .diag _ :: rest => framesOf rest

/-- What R34 says of the state between operations that the types of its fields do not already say, with the record of the sink
(R204) and R121's remark on `P_EMPTY_START_OPENS = false`. -/
structure State.Inv (s : State) : Prop where
  /-- R34 item 2. -/
  lastOffLegal : s.lastOff = 0 ∨ (7 ≤ s.lastOff.toNat ∧ s.lastOff.toNat ≤ 22)
  /-- R34 item 3. -/
  pbWithinCap : ∀ cap, s.params.pesCap = some cap → s.pb.length ≤ cap
  /-- R34 item 4. -/
  inactiveEmpty : s.pesActive = false → s.pb = []
  /-- R121, corner case: with `P_EMPTY_START_OPENS = false`, an active packet is not empty. -/
  activeNonempty : s.params.emptyStartOpens = false → s.pesActive = true → s.pb ≠ []
  /-- R204: the frames taken and those still queued are the `Frame` entries of the trace, in order. -/
  sinkFrames : s.taken ++ s.outq = framesOf s.trace

/-- R232: "A model should treat a run that reaches `OVF = 1` as faulted". -/
def State.Faulted (s : State) : Prop := s.ovf = true

/-- A RESET or CANCEL request still waits for its turn. -/
def State.controlPending (s : State) : Prop := .cancel ∈ s.agenda ∨ ∃ pid, .reset pid ∈ s.agenda

/-- R262: the run is over. Every diagnostic has been presented, since the port never blocks (R203). -/
def State.Over (s : State) : Prop := s.offered = [] ∧ s.outq = [] ∧ ¬ s.controlPending

/-- R262: the run stops with a frame waiting, the sink having stopped taking frames. -/
def State.Stuck (s : State) : Prop := s.outq ≠ [] ∧ .take ∉ s.agenda ∧ ¬ s.controlPending

/-- The only changes the Teletext Field Decoder makes: PARITY, LAST_OFF, FB, OUTQ and the trace (43_teletext_decoder.md). -/
def State.DecoderStep (s t : State) : Prop :=
  t = { s with parity := t.parity, lastOff := t.lastOff, fb := t.fb, outq := t.outq, trace := t.trace }

/-- The only changes the processing of a complete stride makes: the decoder's, PB, PES_ACTIVE and OVF. -/
def State.StrideStep (s t : State) : Prop :=
  t = { s with
    pb := t.pb, pesActive := t.pesActive, ovf := t.ovf, parity := t.parity, lastOff := t.lastOff, fb := t.fb,
    outq := t.outq, trace := t.trace }

/-- The reassembler operation a completed stride runs, if its class produces a fragment (R102, R105). -/
def strideFragment (active : Bool) : StrideOp → Option FragmentOp
  | .syncErr _ => none
  | .pidSkip _ => none
  | .afc0 => none
  | .afc1 pusi payload => some (decodeFragment pusi active payload)
  | .afc2 => none
  | .afc3 pusi len rest => some (decodeFragment pusi active (afc3Payload len rest))

/-- The reassembler operation that an operation runs, and the state it runs in: the operation itself, the one that a stride's
payload selects (R105, R107, R109), or the one that the stride completed by an accepted byte selects (R100, R200). -/
def handed (i : Instr) (s : State) : Option (State × FragmentOp) :=
  match i with
  | .inByte b =>
    if s.inReady = true ∧ s.sbCnt.val = 187 then
      (strideFragment s.pesActive (decodeStride s.ctx (s.sb.set s.sbCnt b))).map
        ({ s with sb := s.sb.set s.sbCnt b, sbCnt := 0 }, ·)
    else none
  | .tsAfc1Payload pusi payload => some (s, decodeFragment pusi s.pesActive payload)
  | .tsAfc3Payload pusi len rest => some (s, decodeFragment pusi s.pesActive (afc3Payload len rest))
  | .pesStart payload => some (s, .start payload)
  | .pesContAppend payload => some (s, .contAppend payload)
  | .pesContDiscard payload => some (s, .contDiscard payload)
  | .outFrame | .diagEvent _ | .cancel | .statusRead | .reset _ => none
  | .tsSyncErr _ | .tsPidSkip _ | .tsAfc0NoPayload | .tsAfc2NoPayload => none
  | .pesOverflow | .pesRejShort _ | .pesRejPrefix _ | .pesRejStreamId _ | .pesRejTrunc _ | .pesRejEmpty => none
  | .pesRejDataId _ | .pesAccept _ => none
  | .duTailDrop _ | .duSkipId _ | .duSkipShort | .duRejOffset _ | .duFieldFlip _ _ _ => none
  | .duLineDecreasing _ _ | .duLine _ _ | .bitrev _ => none

/-- The cap check of R121 and R122 on the new length of PB: with a finite cap, the fragment does not fit. -/
def State.exceedsCap (s : State) : FragmentOp → Prop
  | .start payload => ∃ cap, s.params.pesCap = some cap ∧ cap < payload.length
  | .contAppend payload => ∃ cap, s.params.pesCap = some cap ∧ cap < s.pb.length + payload.length
  | .contDiscard _ => False

/-- The frames of the DU_FIELD_FLIPs of a walk over the bytes from the next slot on, each the Field Buffer as the slots before left
it (R160, R167). -/
def flipFrames (fuel : Nat) (rest : List Byte) (s : State) : List Frame :=
  match fuel with
  | 0 => []
  | n + 1 =>
    if rest.length < 46 then []
    else
      let later := flipFrames n (rest.drop 46) (runSlot (decodeSlot s.ctx rest) s)
      match decodeSlot s.ctx rest with
      | .fieldFlip _ _ _ => serialise s.fb :: later
      | .tailDrop _ | .skipId _ | .skipShort | .rejOffset _ | .lineDecreasing _ _ | .lineInOrder _ _ => later

/-- The frames of the DU_FIELD_FLIPs that the delivery of a packet runs: those of its region's walk if it is accepted (R124). -/
def deliveryFrames (q : List Byte) (s : State) : List Frame :=
  match decodePacket q with
  | .accept region => flipFrames region.length (region.drop 1) s
  | .rejShort _ | .rejPrefix _ | .rejStreamId _ | .rejTrunc _ | .rejEmpty | .rejDataId _ => []

/-- The frames of the delivery an operation runs: only PES_START delivers, and only a PB that is not empty (R121, R125). -/
def deliveredFrames (i : Instr) (s : State) : List Frame :=
  match handed i s with
  | some (u, .start _) => if u.pb = [] then [] else deliveryFrames u.pb { u with pb := [] }
  | some (_, .contAppend _) | some (_, .contDiscard _) | none => []

/-- A turn that neither stops nor resets the block: the source offers, the sink takes, the controller reads STATUS. -/
def HostAct.isFlow : HostAct → Bool
  | .offer => true
  | .take => true
  | .readStatus => true
  | .cancel => false
  | .reset _ => false

/-- One byte consumed as if the output were always drained; a halted or faulted block consumes none (R200). -/
def feedByte (s : State) (b : Byte) : State := if s.halted || s.ovf then s else strideAssembly b s

/-- The trace once every byte still offered is consumed: a function of the byte sequence alone (R50, R51). -/
def State.eventualTrace (s : State) : List Event := (s.offered.foldl feedByte s).trace

end Sys2Proof.Machine
end

