-- ==== Sys2Proof/Certificates/Slice0/Obligations.lean ====
section
/-! DEFINITION. The statements for the provers, from the numbered rules of the spec. -/

set_option autoImplicit false

open Sys2Proof Sys2Proof.Machine

/-! ## The step and the host's turns -/

/-- 20_memory.md R48, 45_host_interface.md R200: what a step fetches and decodes is what it runs. -/
def Obligations.StepRunsDecodedOperation : Prop :=
  ∀ (s t : State) (f : Format) (bs : List Byte) (i : Instr),
    fetch s = (some (f, bs), t) → decode t.ctx f bs = .ok i → step s = exec i t

/-- 45_host_interface.md R208, 60_exceptions.md R234: what each turn of a host agent puts on its port, and what an idle block does. The turns
are the model's own way of writing the host (log entry 10). -/
def Obligations.HostTurnsRunTheirTransaction : Prop :=
  ∀ (s : State) (rest : List HostAct),
    (s.agenda = [] → step s = .next s) ∧
    (∀ b bs, s.agenda = .offer :: rest → s.offered = b :: bs →
      step s = exec (.inByte b) { s with agenda := rest, offered := bs }) ∧
    (s.agenda = .offer :: rest → s.offered = [] → step s = .next { s with agenda := rest }) ∧
    (s.agenda = .take :: rest → step s = exec .outFrame { s with agenda := rest }) ∧
    (s.agenda = .cancel :: rest → step s = exec .cancel { s with agenda := rest }) ∧
    (s.agenda = .readStatus :: rest → step s = exec .statusRead { s with agenda := rest }) ∧
    (∀ pid : Pid, s.agenda = .reset (pid.setWidth 16) :: rest →
      step s = exec (.reset pid) { s with agenda := rest }) ∧
    (∀ wide : BitVec 16, s.agenda = .reset wide :: rest → 0x1FFF < wide.toNat →
      step s = .refused (.undecodable .pidTooWide))

/-- 60_exceptions.md R220: after the first RESET every operation answers a next state, whatever the state and the operands, and the
only refusal is that of a host transaction before the first RESET. For IN_BYTE with IN_READY = 0 and OUT_FRAME with OUTQ empty
the next state is the model's waiting step (log entry 11), and for an operation the decode tree would not have selected it is that
of its pseudocode (log entry 14). The type Fault has no value, so the second clause holds by that type alone: OVF is a status bit
in the model (R232), not a Fault. -/
def Obligations.EveryOperationCompletes : Prop :=
  ∀ (i : Instr) (s : State),
    (s.configured = true → ∃ t, exec i s = .next t) ∧ (∀ f, exec i s ≠ .fault f) ∧
    ∀ r, exec i s = .refused r → s.configured = false ∧ r = .beforeReset ∧
      ((∃ b, i = .inByte b) ∨ i = .outFrame ∨ i = .cancel ∨ i = .statusRead)

/-- 70_reset_and_hazards.md R252: before the first RESET the four transactions are refused and only RESET brings the block into use:
an operation other than RESET leaves it unconfigured. That a field of State says whether a RESET has happened is log entry 19. -/
def Obligations.RefusedBeforeFirstReset : Prop :=
  (∀ (s : State) (b : Byte) (pid : Pid), s.configured = false →
    exec (.inByte b) s = .refused .beforeReset ∧
    exec .outFrame s = .refused .beforeReset ∧
    exec .cancel s = .refused .beforeReset ∧
    exec .statusRead s = .refused .beforeReset ∧
    ∃ t, exec (.reset pid) s = .next t ∧ t.configured = true) ∧
  ∀ (i : Instr) (s t : State), s.configured = false → exec i s = .next t → (∀ pid, i ≠ .reset pid) →
    t.configured = false

/-! ## Host transactions -/

/-- 40_ts_demux.md R100, 45_host_interface.md R200: while IN_READY = 1 the byte is stored and counted; the 188th byte restarts the count and runs, in
the same transaction (20_memory.md R48), the one operation the complete stride selects, and nothing outside that operation's state changes;
while IN_READY = 0 the byte stays with the source, first in its order, and the block does not change (a turn that waits is the model's own step, log entry 11). -/
def Obligations.InByteAssemblesStrides : Prop :=
  ∀ (b : Byte) (s : State), s.configured = true →
    (s.halted = false → s.ovf = false → s.outq = [] →
      (s.sbCnt.val < 187 →
        exec (.inByte b) s = .next { s with sb := s.sb.set s.sbCnt b, sbCnt := s.sbCnt + 1 } ∧
        (s.sbCnt + 1).val = s.sbCnt.val + 1) ∧
      (s.sbCnt.val = 187 → ∃ t,
        exec (.inByte b) s = .next t ∧
        exec (decodeStride s.ctx (s.sb.set s.sbCnt b)).instr { s with sb := s.sb.set s.sbCnt b, sbCnt := 0 } =
          .next t ∧
        State.StrideStep { s with sb := s.sb.set s.sbCnt b, sbCnt := 0 } t)) ∧
    (s.halted = true ∨ s.ovf = true ∨ s.outq ≠ [] →
      exec (.inByte b) s = .next { s with offered := b :: s.offered })

/-- 45_host_interface.md R201: OUT_FRAME hands the oldest frame to the sink, whatever HALTED and OVF are; with OUTQ empty it waits
(log entry 11). The frames taken are recorded in the model's own field (log entry 12). -/
def Obligations.OutFrameDeliversOldest : Prop :=
  ∀ (s : State), s.configured = true →
    (∀ f rest, s.outq = f :: rest →
      exec .outFrame s = .next { s with outq := rest, taken := s.taken ++ [f] }) ∧
    (s.outq = [] → exec .outFrame s = .next s)

/-- 45_host_interface.md R203: a diagnostic enters the trace and changes no block state. That DIAG_EVENT by itself is the same effect
as diag() within an operation, and that it runs before the first RESET too, is the model's reading (log entry 18); that the trace
stands in State is log entry 12. -/
def Obligations.DiagEventOnlyTraced : Prop :=
  ∀ (d : Diag) (s : State), exec (.diagEvent d) s = .next { s with trace := s.trace ++ [.diag d] }

/-- 45_host_interface.md R205: CANCEL sets HALTED and nothing else; IN_READY is then 0, and a second CANCEL changes nothing. -/
def Obligations.CancelHalts : Prop :=
  ∀ (s : State), s.configured = true →
    exec .cancel s = .next { s with halted := true } ∧
    State.inReady { s with halted := true } = false ∧
    exec .cancel { s with halted := true } = .next { s with halted := true }

/-- 45_host_interface.md R200, R206, 10_state.md R29: STATUS_READ returns HALTED, OVF and IN_READY in bits 0 to 2 and zeros above; no block state changes.
The byte returned is recorded in the model's own field (log entry 6). -/
def Obligations.StatusReadReturnsStatus : Prop :=
  ∀ (s : State), s.configured = true →
    ∃ v : Byte, exec .statusRead s = .next { s with result := .status v } ∧
      v.getLsbD 0 = s.halted ∧ v.getLsbD 1 = s.ovf ∧
      (v.getLsbD 2 = true ↔ s.halted = false ∧ s.ovf = false ∧ s.outq = []) ∧
      ∀ i, 3 ≤ i → v.getLsbD i = false

/-- 70_reset_and_hazards.md R250: RESET sets every state element to its reset value. SB may hold any value; the host's side (the bytes still
offered, the turns: log entry 10), the model's record of a returned value (log entry 6) and the instance's parameters stay, and the
model's record of the frames taken starts anew (log entry 12). No other operation clears HALTED or OVF. -/
def Obligations.ResetSetsEveryElement : Prop :=
  (∀ (pid : Pid) (s : State), ∃ t, exec (.reset pid) s = .next t ∧
    t.cfgPid = pid ∧ t.sbCnt = 0 ∧ t.pb = [] ∧ t.pesActive = false ∧ t.parity = s.params.initParity ∧
    t.lastOff = 0 ∧ (∀ r c, (t.fb.get r).get c = 0) ∧ t.outq = [] ∧ t.halted = false ∧ t.ovf = false ∧
    t.trace = [] ∧ t.taken = [] ∧ t.status = 0x04 ∧
    t.params = s.params ∧ t.offered = s.offered ∧ t.agenda = s.agenda ∧ t.result = s.result) ∧
  ∀ (i : Instr) (s t : State), exec i s = .next t → (∀ pid, i ≠ .reset pid) →
    (s.halted = true → t.halted = true) ∧ (s.ovf = true → t.ovf = true)

/-- 10_state.md R21 to R29: the state named as the machine right after reset holds the same values, for every instance and every PID.
`State.reset` itself is that of an instance whose PID and initial parity the model chose (log entry 1). -/
def Obligations.StateAfterResetValues : Prop :=
  (∀ (p : Params) (pid : Pid),
    let t := State.resetOf p pid
    t.params = p ∧ t.cfgPid = pid ∧ t.sbCnt = 0 ∧ t.pb = [] ∧ t.pesActive = false ∧ t.parity = p.initParity ∧
    t.lastOff = 0 ∧ (∀ r c, (t.fb.get r).get c = 0) ∧ t.outq = [] ∧ t.trace = [] ∧ t.status = 0x04) ∧
  ∃ q, State.reset = State.resetOf q 0 ∧ q.pesCap = none ∧ q.emptyStartOpens = true

/-! ## TS Demultiplexer -/

/-- 30_encoding.md R61: SYNC, PUSI, PID and AFC are bits 31:24, 22, 20:8 and 5:4 of the header word H. -/
def Obligations.HeaderFieldPositions : Prop :=
  ∀ (sb : Stride),
    let h := (sb.get 0).toNat * 2 ^ 24 + (sb.get 1).toNat * 2 ^ 16 + (sb.get 2).toNat * 2 ^ 8 + (sb.get 3).toNat
    (syncField sb).toNat = h / 2 ^ 24 ∧ (pusiField sb = true ↔ h / 2 ^ 22 % 2 = 1) ∧
    (pidField sb).toNat = h / 2 ^ 8 % 2 ^ 13 ∧ (afcField sb).toNat = h / 2 ^ 4 % 2 ^ 2

/-- 40_ts_demux.md R103: a stride whose byte 0 is not P_SYNC_BYTE, whatever its PID and AFC, raises SYNC_MISSING with that byte and
changes nothing else. -/
def Obligations.SyncErrorDropsStride : Prop :=
  ∀ (s : State),
    (s.sb.get 0 ≠ s.params.syncByte → (decodeStride s.ctx s.sb).instr = .tsSyncErr (s.sb.get 0)) ∧
    ∀ sync, exec (.tsSyncErr sync) s = .next { s with trace := s.trace ++ [.diag (.syncMissing sync)] }

/-- 40_ts_demux.md R104, R106, R108: another PID, AFC = 0 and AFC = 2 each select their operation, whatever PUSI is, and change nothing. -/
def Obligations.SkippedStridesChangeNothing : Prop :=
  ∀ (s : State),
    (s.sb.get 0 = s.params.syncByte → pidField s.sb ≠ s.cfgPid →
      (decodeStride s.ctx s.sb).instr = .tsPidSkip (pidField s.sb)) ∧
    (s.sb.get 0 = s.params.syncByte → pidField s.sb = s.cfgPid →
      (afcField s.sb = 0 → (decodeStride s.ctx s.sb).instr = .tsAfc0NoPayload) ∧
      (afcField s.sb = 2 → (decodeStride s.ctx s.sb).instr = .tsAfc2NoPayload)) ∧
    (∀ pid, exec (.tsPidSkip pid) s = .next s) ∧
    exec .tsAfc0NoPayload s = .next s ∧ exec .tsAfc2NoPayload s = .next s

/-- 40_ts_demux.md R105, R107: AFC = 1 hands bytes 4..187, always 184 of them, to the reassembler with is_start = PUSI, in the same step. -/
def Obligations.Afc1HandsWholePayload : Prop :=
  ∀ (s : State),
    (s.sb.get 0 = s.params.syncByte → pidField s.sb = s.cfgPid → afcField s.sb = 1 →
      ∃ payload, (decodeStride s.ctx s.sb).instr = .tsAfc1Payload (pusiField s.sb) payload ∧
        payload.length = 184 ∧ ∀ i, i < 184 → byteAt payload i = byteAt s.sb.toList (4 + i)) ∧
    ∀ pusi payload, ∃ t,
      exec (.tsAfc1Payload pusi payload) s = .next t ∧
      exec (if pusi then .pesStart payload
        else if s.pesActive then .pesContAppend payload else .pesContDiscard payload) s = .next t

/-- 40_ts_demux.md R109, 30_encoding.md R62: AFC = 3 hands bytes 5+L..187 to the reassembler, 183 - L of them if L ≤ 183 and none otherwise; an
empty fragment is still delivered. -/
def Obligations.Afc3SkipsAdaptationField : Prop :=
  ∀ (s : State),
    (s.sb.get 0 = s.params.syncByte → pidField s.sb = s.cfgPid → afcField s.sb = 3 →
      ∃ rest, (decodeStride s.ctx s.sb).instr = .tsAfc3Payload (pusiField s.sb) (s.sb.get 4) rest ∧
        rest.length = 183 ∧ ∀ i, i < 183 → byteAt rest i = byteAt s.sb.toList (5 + i)) ∧
    ∀ pusi (len : Byte) rest, rest.length = 183 → ∃ payload t,
      payload.length = (if len.toNat ≤ 183 then 183 - len.toNat else 0) ∧
      (∀ i, i < payload.length → byteAt payload i = byteAt rest (len.toNat + i)) ∧
      exec (.tsAfc3Payload pusi len rest) s = .next t ∧
      exec (if pusi then .pesStart payload
        else if s.pesActive then .pesContAppend payload else .pesContDiscard payload) s = .next t

/-- 30_encoding.md R73: TEI, TP, TSC and CC never change what a stride selects, nor does anything in an AFC = 3 stride's adaptation field. -/
def Obligations.IgnoredHeaderBitsIrrelevant : Prop :=
  ∀ (c : Ctx) (a b : Stride),
    syncField a = syncField b → pusiField a = pusiField b → pidField a = pidField b → afcField a = afcField b →
    ((∀ i, 4 ≤ i → i < 188 → byteAt a.toList i = byteAt b.toList i) → decodeStride c a = decodeStride c b) ∧
    ∀ pa la ra pb lb rb, decodeStride c a = .afc3 pa la ra → decodeStride c b = .afc3 pb lb rb →
      a.get 4 = b.get 4 → (∀ i, 5 + (a.get 4).toNat ≤ i → i < 188 → byteAt a.toList i = byteAt b.toList i) →
      pa = pb ∧ la = lb ∧ afc3Payload la ra = afc3Payload lb rb

/-! ## PES Reassembler -/

/-- 41_pes_reassembler.md R121: a fragment with is_start = 1 first delivers a PB that is not empty, emptied, to the parser and the decoder (which
change only PARITY, LAST_OFF, FB, OUTQ and the trace); then PB takes the fragment, and PES_ACTIVE is set unless the fragment is empty
and P_EMPTY_START_OPENS is false; a fragment beyond a finite cap overflows instead. -/
def Obligations.StartFragmentClosesAndOpens : Prop :=
  ∀ (payload : List Byte) (s : State),
    let t := if s.pb = [] then s else pesDeliver s.pb { s with pb := [] }
    (decodeFragment true s.pesActive payload).instr = .pesStart payload ∧
    State.DecoderStep { s with pb := [] } t ∧
    ((∀ cap, s.params.pesCap = some cap → payload.length ≤ cap) →
      exec (.pesStart payload) s =
        .next { t with pb := payload, pesActive := s.params.emptyStartOpens || !payload.isEmpty }) ∧
    ∀ cap, s.params.pesCap = some cap → cap < payload.length →
      exec (.pesStart payload) s = exec .pesOverflow t

/-- 41_pes_reassembler.md R122: with PES_ACTIVE = 1 a continuation fragment is appended to PB, or overflows a finite cap that the new length
exceeds. -/
def Obligations.ContinuationAppends : Prop :=
  ∀ (payload : List Byte) (s : State),
    (s.pesActive = true → (decodeFragment false s.pesActive payload).instr = .pesContAppend payload) ∧
    ((∀ cap, s.params.pesCap = some cap → s.pb.length + payload.length ≤ cap) →
      exec (.pesContAppend payload) s = .next { s with pb := s.pb ++ payload }) ∧
    ∀ cap, s.params.pesCap = some cap → cap < s.pb.length + payload.length →
      exec (.pesContAppend payload) s = exec .pesOverflow s

/-- 41_pes_reassembler.md R123: a continuation fragment selects PES_CONT_DISCARD exactly when PES_ACTIVE = 0, and it changes nothing. -/
def Obligations.ContinuationDiscardedWhenInactive : Prop :=
  ∀ (payload : List Byte) (s : State),
    ((decodeFragment false s.pesActive payload).instr = .pesContDiscard payload ↔ s.pesActive = false) ∧
    exec (.pesContDiscard payload) s = .next s

/-- 41_pes_reassembler.md R126, 60_exceptions.md R232: PES_OVERFLOW raises the diagnostic and the sticky fault, empties PB and PES_ACTIVE, leaves OUTQ as it is,
and IN_READY is then 0. -/
def Obligations.OverflowStopsInput : Prop :=
  ∀ (s : State), ∃ t,
    exec .pesOverflow s = .next t ∧
    t = { s with trace := s.trace ++ [.diag .pesOverflow], ovf := true, pb := [], pesActive := false } ∧
    t.inReady = false

/-- 41_pes_reassembler.md, the reassembly law the spec derives from R120 to R124: fragments F1(start), F2, F3, F4(start) deliver exactly the
packet F1 ‖ F2 ‖ F3, when F4 arrives, nothing if that is empty, and leave PB = F4. -/
def Obligations.ReassemblyLaw : Prop :=
  ∀ (s : State) (f1 f2 f3 f4 : List Byte), s.pb = [] →
    (∀ cap, s.params.pesCap = some cap → f1.length + f2.length + f3.length ≤ cap ∧ f4.length ≤ cap) →
    (f1 ≠ [] ∨ s.params.emptyStartOpens = true ∨ f1 ++ f2 ++ f3 = []) →
    ∃ s1 s2 s3 s4,
      exec (.pesStart f1) s = .next s1 ∧
      exec (decodeFragment false s1.pesActive f2).instr s1 = .next s2 ∧
      exec (decodeFragment false s2.pesActive f3).instr s2 = .next s3 ∧
      exec (.pesStart f4) s3 = .next s4 ∧
      s3 = { s with pb := f1 ++ f2 ++ f3, pesActive := s.params.emptyStartOpens || !f1.isEmpty } ∧
      s4 = { (if f1 ++ f2 ++ f3 = [] then s else pesDeliver (f1 ++ f2 ++ f3) { s3 with pb := [] }) with
        pb := f4, pesActive := s.params.emptyStartOpens || !f4.isEmpty }

/-! ## PES Header Parser -/

/-- 42_pes_header_parser.md R140, R148: the first failing check, in the order length, prefix, stream id, truncation, emptiness, data
identifier, decides which operation a packet selects; a rejection returns reject, PES_ACCEPT returns the region (log entry 6: the model
records what an operation returns in a field of its own). -/
def Obligations.ParserCheckOrder : Prop :=
  ∀ (p : List Byte) (s : State),
    let pre := (byteAt p 0).toNat * 65536 + (byteAt p 1).toNat * 256 + (byteAt p 2).toNat
    let pktLen := (byteAt p 4).toNat * 256 + (byteAt p 5).toNat
    let start := 9 + (byteAt p 8).toNat
    let stop := if 0 < pktLen then 6 + pktLen else p.length
    let dataId := byteAt p start
    (p.length < 9 → (decodePacket p).instr = .pesRejShort p.length) ∧
    (9 ≤ p.length → pre ≠ 1 → ∃ v, v.toNat = pre ∧ (decodePacket p).instr = .pesRejPrefix v) ∧
    (9 ≤ p.length → pre = 1 → byteAt p 3 ≠ 0xBD →
      (decodePacket p).instr = .pesRejStreamId (byteAt p 3)) ∧
    (9 ≤ p.length → pre = 1 → byteAt p 3 = 0xBD → p.length < stop →
      ∃ v, v.toNat = pktLen ∧ (decodePacket p).instr = .pesRejTrunc v) ∧
    (9 ≤ p.length → pre = 1 → byteAt p 3 = 0xBD → stop ≤ p.length → stop ≤ start →
      (decodePacket p).instr = .pesRejEmpty) ∧
    (9 ≤ p.length → pre = 1 → byteAt p 3 = 0xBD → stop ≤ p.length → start < stop →
      ¬ (0x10 ≤ dataId.toNat ∧ dataId.toNat ≤ 0x1F) → (decodePacket p).instr = .pesRejDataId dataId) ∧
    (9 ≤ p.length → pre = 1 → byteAt p 3 = 0xBD → stop ≤ p.length → start < stop →
      (0x10 ≤ dataId.toNat ∧ dataId.toNat ≤ 0x1F) →
      ∃ region, (decodePacket p).instr = .pesAccept region ∧ region.length = stop - start ∧
        (∀ i, i < region.length → byteAt region i = byteAt p (start + i)) ∧
        exec (.pesAccept region) s = .next { s with result := .region region }) ∧
    ((∀ region, (decodePacket p).instr ≠ .pesAccept region) →
      ∃ t, exec (decodePacket p).instr s = .next t ∧ t.result = .reject)

/-- 42_pes_header_parser.md R142 to R147: each rejection returns reject; the first four raise their one diagnostic with its argument, the
last two are silent; nothing else changes. -/
def Obligations.ParserRejections : Prop :=
  ∀ (s : State),
    (∀ len, exec (.pesRejShort len) s =
      .next { s with trace := s.trace ++ [.diag (.pesTooShort (BitVec.ofNat 24 len))], result := .reject }) ∧
    (∀ pre, exec (.pesRejPrefix pre) s =
      .next { s with trace := s.trace ++ [.diag (.pesNoPrefix pre)], result := .reject }) ∧
    (∀ sid, exec (.pesRejStreamId sid) s =
      .next { s with trace := s.trace ++ [.diag (.pesBadStreamId sid)], result := .reject }) ∧
    (∀ pktLen, exec (.pesRejTrunc pktLen) s =
      .next { s with trace := s.trace ++ [.diag (.pesTruncated pktLen)], result := .reject }) ∧
    exec .pesRejEmpty s = .next { s with result := .reject } ∧
    ∀ dataId, exec (.pesRejDataId dataId) s = .next { s with result := .reject }

/-- 42_pes_header_parser.md R148, 41_pes_reassembler.md R124: an accepted packet's region is returned and decoded; a rejected packet reaches no decoder and does
only what its rejection does. -/
def Obligations.DeliveryParsesThenDecodes : Prop :=
  ∀ (q : List Byte) (s : State),
    (∀ region, exec (.pesAccept region) s = .next { s with result := .region region }) ∧
    (∀ region, (decodePacket q).instr = .pesAccept region → pesDeliver q s = decodeRegion region s) ∧
    ((∀ region, (decodePacket q).instr ≠ .pesAccept region) →
      exec (decodePacket q).instr s = .next { pesDeliver q s with result := .reject })

/-- 30_encoding.md R73: PES header bytes 6 and 7 and the header data never change what a packet selects. -/
def Obligations.SkippedPesBytesIrrelevant : Prop :=
  ∀ (p q : List Byte), p.length = q.length →
    (∀ i, i ≠ 6 → i ≠ 7 → (i < 9 ∨ 9 + (byteAt p 8).toNat ≤ i) → byteAt p i = byteAt q i) →
    decodePacket p = decodePacket q

/-! ## Teletext Field Decoder -/

/-- 43_teletext_decoder.md R161 to R166: which operation a slot position selects, from the bytes left, the data-unit id, the parity bit and the
line offset; the order is length, id, offset range, parity, ordering. -/
def Obligations.SlotCheckOrder : Prop :=
  ∀ (c : Ctx) (rest : List Byte),
    let duId := (byteAt rest 0).toNat
    let off := (byteAt rest 2).toNat % 32
    let fp := (byteAt rest 2).toNat / 32 % 2
    (rest.length < 46 → (decodeSlot c rest).instr = .duTailDrop rest.length) ∧
    (46 ≤ rest.length → duId ≠ 2 → duId ≠ 3 → (decodeSlot c rest).instr = .duSkipId (byteAt rest 0)) ∧
    (46 ≤ rest.length → (duId = 2 ∨ duId = 3) → (off < 7 ∨ 22 < off) →
      ∃ v, v.toNat = off ∧ (decodeSlot c rest).instr = .duRejOffset v) ∧
    (46 ≤ rest.length → (duId = 2 ∨ duId = 3) → 7 ≤ off → off ≤ 22 →
      ∃ (row : Fin 16) (line : Line), row.val + 7 = off ∧ (∀ k, line.get k = byteAt rest (4 + k.val)) ∧
        (fp ≠ c.parity.toNat → ∃ v, v.toNat = fp ∧ (decodeSlot c rest).instr = .duFieldFlip v row line) ∧
        (fp = c.parity.toNat → off < c.lastOff.toNat → (decodeSlot c rest).instr = .duLineDecreasing row line) ∧
        (fp = c.parity.toNat → c.lastOff.toNat ≤ off → (decodeSlot c rest).instr = .duLine row line))

/-- 43_teletext_decoder.md R163: no input selects DU_SKIP_SHORT; 41_pes_reassembler.md R126: none selects PES_OVERFLOW directly. -/
def Obligations.NeverSelectedOperations : Prop :=
  ∀ (c : Ctx) (f : Format) (bs : List Byte),
    decode c f bs ≠ .ok .duSkipShort ∧ decode c f bs ≠ .ok .pesOverflow

/-- 43_teletext_decoder.md R161, R162, R163: fewer than 46 bytes left select DU_TAIL_DROP, an id other than 0x02 and 0x03 selects DU_SKIP_ID, and
these two and DU_SKIP_SHORT change nothing. That DU_SKIP_SHORT has R163's effect and not I12's fault is the model's reading (log
entry 9). -/
def Obligations.SkippedSlotsChangeNothing : Prop :=
  ∀ (s : State),
    (∀ rest : List Byte, rest.length < 46 → (decodeSlot s.ctx rest).instr = .duTailDrop rest.length) ∧
    (∀ rest : List Byte, 46 ≤ rest.length → byteAt rest 0 ≠ 0x02 → byteAt rest 0 ≠ 0x03 →
      (decodeSlot s.ctx rest).instr = .duSkipId (byteAt rest 0)) ∧
    (∀ left, exec (.duTailDrop left) s = .next s) ∧ (∀ duId, exec (.duSkipId duId) s = .next s) ∧
    exec .duSkipShort s = .next s

/-- 43_teletext_decoder.md R165: an accepted id with an offset outside 7..22 selects DU_REJ_OFFSET, whatever the parity; it raises
LINE_OFFSET_INVALID and changes nothing else. -/
def Obligations.InvalidOffsetOnlyDiagnosed : Prop :=
  ∀ (s : State),
    (∀ rest : List Byte, 46 ≤ rest.length → duIdOk (byteAt rest 0) = true →
      (slotOffset rest).toNat < 7 ∨ 22 < (slotOffset rest).toNat →
      (decodeSlot s.ctx rest).instr = .duRejOffset (slotOffset rest)) ∧
    ∀ off : BitVec 5,
      exec (.duRejOffset off) s = .next { s with trace := s.trace ++ [.diag (.lineOffsetInvalid off)] }

/-- 43_teletext_decoder.md R169, R170, R171: an accepted unit of the current parity whose offset row + 7 is not below LAST_OFF selects DU_LINE; it
replaces its row by the reversed line, no other row changes, LAST_OFF becomes the offset, and nothing else changes. -/
def Obligations.LineWritesItsRow : Prop :=
  ∀ (row : Fin 16) (s : State),
    (∀ rest : List Byte, 46 ≤ rest.length → duIdOk (byteAt rest 0) = true → (slotOffset rest).toNat = row.val + 7 →
      slotParity rest = s.parity → s.lastOff.toNat ≤ row.val + 7 →
      (decodeSlot s.ctx rest).instr = .duLine row (slotLine rest)) ∧
    ∀ line : Line, ∃ t,
      exec (.duLine row line) s = .next t ∧
      t = { s with fb := t.fb, lastOff := t.lastOff } ∧ t.lastOff.toNat = row.val + 7 ∧
      ∀ r c, (t.fb.get r).get c = if r = row then rev (line.get c) else (s.fb.get r).get c

/-- 43_teletext_decoder.md R168: an accepted unit of the current parity whose offset row + 7 is below LAST_OFF selects DU_LINE_DECREASING; it
raises its diagnostic with the new and the old offset, and the line is still written. -/
def Obligations.DecreasingLineStillWritten : Prop :=
  ∀ (row : Fin 16) (s : State),
    (∀ rest : List Byte, 46 ≤ rest.length → duIdOk (byteAt rest 0) = true → (slotOffset rest).toNat = row.val + 7 →
      slotParity rest = s.parity → row.val + 7 < s.lastOff.toNat →
      (decodeSlot s.ctx rest).instr = .duLineDecreasing row (slotLine rest)) ∧
    ∀ line : Line, ∃ t off,
      exec (.duLineDecreasing row line) s = .next t ∧
      t = { s with fb := t.fb, lastOff := off, trace := s.trace ++ [.diag (.lineOffsetDecreasing off s.lastOff)] } ∧
      off.toNat = row.val + 7 ∧
      ∀ r c, (t.fb.get r).get c = if r = row then rev (line.get c) else (s.fb.get r).get c

/-- 43_teletext_decoder.md R167, 20_memory.md R44: an accepted unit of the other parity selects DU_FIELD_FLIP; it emits the Field Buffer as one
frame, byte i being FB[i div 42][i mod 42], takes the new parity, and starts a zero-filled buffer with the new line. -/
def Obligations.FieldFlipEmitsAndRestarts : Prop :=
  ∀ (row : Fin 16) (s : State),
    (∀ rest : List Byte, 46 ≤ rest.length → duIdOk (byteAt rest 0) = true → (slotOffset rest).toNat = row.val + 7 →
      slotParity rest ≠ s.parity →
      (decodeSlot s.ctx rest).instr = .duFieldFlip (slotParity rest) row (slotLine rest)) ∧
    ∀ (fp : BitVec 1) (line : Line), ∃ t frame,
      exec (.duFieldFlip fp row line) s = .next t ∧
      t = { s with
        parity := fp, lastOff := t.lastOff, fb := t.fb, outq := s.outq ++ [frame], trace := s.trace ++ [.frame frame] } ∧
      (∀ (i : Fin 672) (r : Fin 16) (c : Fin 42), r.val = i.val / 42 → c.val = i.val % 42 →
        frame.get i = (s.fb.get r).get c) ∧
      t.lastOff.toNat = row.val + 7 ∧
      ∀ r c, (t.fb.get r).get c = if r = row then rev (line.get c) else 0

/-- 43_teletext_decoder.md R160, 30_encoding.md R66: the walk runs the operation of each 46-byte slot after the data identifier in order, each on the
state the one before left, and ends at the first position with fewer than 46 bytes. -/
def Obligations.RegionWalkedSlotBySlot : Prop :=
  ∀ (dataId : Byte) (rest : List Byte) (s : State),
    (rest.length < 46 → decodeRegion (dataId :: rest) s = s) ∧
    (46 ≤ rest.length → ∃ t, exec (decodeSlot s.ctx rest).instr s = .next t ∧
      decodeRegion (dataId :: rest) s = decodeRegion (dataId :: rest.drop 46) t)

/-- 30_encoding.md R73: the data-unit length byte, bits 7:6 of the data field's byte 0 and the framing byte never change what a slot
selects. -/
def Obligations.IgnoredSlotBytesIrrelevant : Prop :=
  ∀ (c : Ctx) (a b : List Byte), a.length = b.length → byteAt a 0 = byteAt b 0 →
    (byteAt a 2).toNat % 64 = (byteAt b 2).toNat % 64 →
    (∀ i, 4 ≤ i → i < 46 → byteAt a i = byteAt b i) → decodeSlot c a = decodeSlot c b

/-- 43_teletext_decoder.md, the field-emission law the spec derives from R167 and R171: two units of the current parity at offsets 7 and 8 and one of the other parity at offset 7 emit exactly one frame:
row 0 and row 1 are the reversed lines of the first two, the rest is what FB held. -/
def Obligations.FieldEmissionLaw : Prop :=
  ∀ (s : State) (dataId : Byte) (u1 u2 u3 : List Byte),
    u1.length = 46 → u2.length = 46 → u3.length = 46 →
    duIdOk (byteAt u1 0) = true → duIdOk (byteAt u2 0) = true → duIdOk (byteAt u3 0) = true →
    slotParity u1 = s.parity → slotParity u2 = s.parity → slotParity u3 = 1 - s.parity →
    (slotOffset u1).toNat = 7 → (slotOffset u2).toNat = 8 → (slotOffset u3).toNat = 7 →
    let t := decodeRegion (dataId :: (u1 ++ u2 ++ u3)) s
    ∃ frame : Frame,
      t.outq = s.outq ++ [frame] ∧ framesOf t.trace = framesOf s.trace ++ [frame] ∧
      (∀ (i : Fin 672) (r : Fin 16) (c : Fin 42), r.val = i.val / 42 → c.val = i.val % 42 →
        frame.get i = if r = 0 then rev (byteAt u1 (4 + c.val))
          else if r = 1 then rev (byteAt u2 (4 + c.val)) else (s.fb.get r).get c) ∧
      t.parity = 1 - s.parity ∧ t.lastOff.toNat = 7 ∧
      ∀ r c, (t.fb.get r).get c = if r = 0 then rev (byteAt u3 (4 + c.val)) else 0

/-! ## Bit-Order Table -/

/-- 44_bit_order_table.md R190, R191, R192: BITREV returns the table's entry (recorded in the model's own field, log entry 6), whose bit i is bit
7 - i of b and whose value is R190's sum; the table is its own inverse. -/
def Obligations.BitReversal : Prop :=
  ∀ (b : Byte) (s : State),
    exec (.bitrev b) s = .next { s with result := .reversed (rev b) } ∧
    (∀ i, i < 8 → (rev b).getLsbD i = b.getLsbD (7 - i)) ∧ (rev b).toNat = revSum b ∧ rev (rev b) = b

/-- 44_bit_order_table.md, derived there from R190: exactly these 16 bytes are their own reversal. -/
def Obligations.SelfReversedBytes : Prop :=
  ∀ (b : Byte), rev b = b ↔
    b ∈ ([0x00, 0x18, 0x24, 0x3C, 0x42, 0x5A, 0x66, 0x7E, 0x81, 0x99, 0xA5, 0xBD, 0xC3, 0xDB, 0xE7, 0xFF] : List Byte)

/-! ## Encoding -/

/-- A well-formed operation's own unit is read back as that operation, with every operand at every value (30_encoding.md R61 to R71).
The byte forms of DIAG_EVENT, RESET and fragments are the model's (log entry 7). -/
def Obligations.DecodeEncodeAgree : Prop :=
  ∀ (i : Instr) (c : Ctx) (f : Format) (bs : List Byte), WellFormed i = true → selectedBy c i = true →
    encode c i = some (f, bs) → decode c f bs = .ok i

/-- Whatever the decoder accepts is well formed and selected by the context it was read in (30_encoding.md R71). The byte forms of
DIAG_EVENT, RESET and fragments are the model's (log entry 7). -/
def Obligations.DecodedIsWellFormed : Prop :=
  ∀ (c : Ctx) (f : Format) (bs : List Byte) (i : Instr),
    decode c f bs = .ok i → WellFormed i = true ∧ selectedBy c i = true

/-- 60_exceptions.md R221: the eight codes, each diagnostic's arguments, and the reserved codes refused. -/
def Obligations.DiagnosticCodes : Prop :=
  (∀ b : Byte, diagCode (.syncMissing b) = 0x01 ∧ (diagArgs (.syncMissing b)).map BitVec.toNat = [b.toNat]) ∧
  (∀ n : BitVec 24, diagCode (.pesTooShort n) = 0x02 ∧ diagArgs (.pesTooShort n) = [n]) ∧
  (∀ v : BitVec 24, diagCode (.pesNoPrefix v) = 0x03 ∧ diagArgs (.pesNoPrefix v) = [v]) ∧
  (∀ b : Byte, diagCode (.pesBadStreamId b) = 0x04 ∧ (diagArgs (.pesBadStreamId b)).map BitVec.toNat = [b.toNat]) ∧
  (∀ k : BitVec 16, diagCode (.pesTruncated k) = 0x05 ∧ (diagArgs (.pesTruncated k)).map BitVec.toNat = [k.toNat]) ∧
  (∀ o : BitVec 5, diagCode (.lineOffsetInvalid o) = 0x06 ∧
    (diagArgs (.lineOffsetInvalid o)).map BitVec.toNat = [o.toNat]) ∧
  (∀ o l : BitVec 5, diagCode (.lineOffsetDecreasing o l) = 0x07 ∧
    (diagArgs (.lineOffsetDecreasing o l)).map BitVec.toNat = [o.toNat, l.toNat]) ∧
  (diagCode .pesOverflow = 0x08 ∧ diagArgs .pesOverflow = []) ∧
  ∀ (c : Ctx) (code : Byte) (args : List Byte), (code.toNat = 0 ∨ 8 < code.toNat) →
    decode c .portDiag (code :: args) = .error .reservedDiag

/-- A few words written out from 30_encoding.md R61, R64, R68 and 42_pes_header_parser.md decode to the operation they stand for. -/
def Obligations.DecodeSampleWords : Prop :=
  decodeTableWord 32 0x48483510 = some (.tsSyncErr 0x48) ∧
  decodeTableWord 32 0x47410010 = some (.tsPidSkip 0x0100) ∧
  decodeTableWord 32 0x47400010 = some (.tsAfc1Payload true (zeros 184)) ∧
  decodeTableWord 32 0x000001BE = some (.pesRejStreamId 0xBE) ∧
  decodeTableWord 24 0x022CC6 = some (.duRejOffset 6) ∧
  decodeTableWord 24 0xFF2CC7 = some (.duSkipId 0xFF) ∧
  decodeTableWord 24 0x032CF6 = some (.duFieldFlip 1 15 (Block.fill 42 0)) ∧
  decodeTableWord 16 0x0835 = some (.reset 0x0835) ∧
  decodeTableWord 16 0x2000 = none

/-! ## Whole-machine rules -/

/-- Every step keeps the invariants of 10_state.md R34, R204's record of the sink among them (20_memory.md R48). -/
def Obligations.StepKeepsInvariants : Prop :=
  ∀ (s t : State), s.Inv → step s = .next t → t.Inv

/-- The invariants hold right after reset, for every instance and every PID (70_reset_and_hazards.md R250). -/
def Obligations.ResetMeetsInvariants : Prop :=
  ∀ (p : Params) (pid : Pid), (State.resetOf p pid).Inv ∧ State.reset.Inv

/-- 10_state.md R34: the seven facts, in every state that meets the invariants. -/
def Obligations.InvariantsGiveSevenFacts : Prop :=
  ∀ (s : State), s.Inv →
    s.sbCnt.val ≤ 187 ∧ (s.lastOff.toNat = 0 ∨ (7 ≤ s.lastOff.toNat ∧ s.lastOff.toNat ≤ 22)) ∧
    (∀ cap, s.params.pesCap = some cap → s.pb.length ≤ cap) ∧ (s.pesActive = false → s.pb = []) ∧
    (s.outq ≠ [] → s.status.getLsbD 2 = false) ∧ (∀ f ∈ s.outq, f.toList.length = 672) ∧
    (s.status.getLsbD 1 = true → s.status.getLsbD 2 = false)

/-- 10_state.md R21, 70_reset_and_hazards.md R251: only RESET changes CFG_PID; nothing changes the instance's parameters or forgets that a RESET
happened. -/
def Obligations.PidOnlyByReset : Prop :=
  ∀ (i : Instr) (s t : State), exec i s = .next t →
    t.params = s.params ∧ (s.configured = true → t.configured = true) ∧
    ((∀ pid, i ≠ .reset pid) → t.cfgPid = s.cfgPid)

/-- 60_exceptions.md R227, R232, 45_host_interface.md R205, 41_pes_reassembler.md R121, R122, R126: HALTED and OVF are left only through
reset; only CANCEL sets HALTED; and an operation other than RESET sets OVF exactly when it is PES_OVERFLOW or the reassembler operation it
runs fails its cap check, so with no cap only PES_OVERFLOW does. -/
def Obligations.HaltedAndOvfSticky : Prop :=
  ∀ (i : Instr) (s t : State), exec i s = .next t → (∀ pid, i ≠ .reset pid) →
    (s.halted = true → t.halted = true) ∧ (s.ovf = true → t.ovf = true) ∧
    (i ≠ .cancel → t.halted = s.halted) ∧
    (s.params.pesCap = none → i ≠ .pesOverflow → t.ovf = s.ovf) ∧
    (t.ovf = true ↔ s.ovf = true ∨ i = .pesOverflow ∨ ∃ u op, handed i s = some (u, op) ∧ u.exceedsCap op)

/-- 45_host_interface.md R202, R204: apart from RESET, which starts a new trace, an operation only appends to the trace; apart from OUT_FRAME, it appends to
OUTQ exactly the frames it appends to the trace. -/
def Obligations.TraceAndQueueOnlyGrow : Prop :=
  ∀ (i : Instr) (s t : State), exec i s = .next t → (∀ pid, i ≠ .reset pid) →
    ∃ events, t.trace = s.trace ++ events ∧ (i ≠ .outFrame → t.outq = s.outq ++ framesOf events)

/-- 43_teletext_decoder.md R172: an operation other than RESET emits exactly the frames of its DU_FIELD_FLIPs: DU_FIELD_FLIP itself exactly
one, an operation that delivers a packet exactly those of the flips its walk runs, in order, any other none, CANCEL and the rejections
among them. -/
def Obligations.OnlyFieldFlipEmits : Prop :=
  ∀ (i : Instr) (s t : State), exec i s = .next t →
    ((∀ b, i ≠ .inByte b) → (∀ p l, i ≠ .tsAfc1Payload p l) → (∀ p n l, i ≠ .tsAfc3Payload p n l) →
      (∀ l, i ≠ .pesStart l) → (∀ p r l, i ≠ .duFieldFlip p r l) → (∀ pid, i ≠ .reset pid) →
      framesOf t.trace = framesOf s.trace) ∧
    (∀ p r l, i = .duFieldFlip p r l → framesOf t.trace = framesOf s.trace ++ [serialise s.fb]) ∧
    ((∀ p r l, i ≠ .duFieldFlip p r l) → (∀ pid, i ≠ .reset pid) →
      framesOf t.trace = framesOf s.trace ++ deliveredFrames i s)

/-- 20_memory.md R50, R51: a turn of the source, of the sink or of a STATUS reader never changes what the trace will be once every offered byte
is consumed. -/
def Obligations.HostTimingKeepsEventualTrace : Prop :=
  ∀ (s t : State) (act : HostAct) (rest : List HostAct), s.configured = true →
    s.agenda = act :: rest → act.isFlow = true → step s = .next t →
    t.configured = true ∧ t.eventualTrace = s.eventualTrace

/-- 20_memory.md R50, R51: however the host spreads its offers, takes and STATUS reads, once every byte is consumed the trace is the one the
bytes alone determine. -/
def Obligations.TraceIndependentOfHostTiming : Prop :=
  ∀ (k : Nat) (s t : State), s.configured = true → (∀ act ∈ s.agenda, act.isFlow = true) →
    Host.Core.run Sys2Proof.core k s = .next t → t.offered = [] → t.trace = s.eventualTrace
end

