-- ==== Sys2Proof/Laws/Block.lean ====
section
/-! SUPPORT. What reading a Block gives after each way of making one. -/

set_option autoImplicit false

namespace Sys2Proof

variable {α : Type} {n : Nat}

theorem Block.ext_get {a b : Block α n} (h : ∀ i, a.get i = b.get i) : a = b := by
  obtain ⟨la, ha⟩ := a
  obtain ⟨lb, hb⟩ := b
  have hl : la = lb := by
    apply List.ext_getElem (by rw [ha, hb])
    intro i hi _
    exact h ⟨i, ha ▸ hi⟩
  subst hl
  rfl

@[simp] theorem Block.get_tabulate (f : Fin n → α) (i : Fin n) : (Block.tabulate f).get i = f i := by
  simp [Block.get, Block.tabulate]

@[simp] theorem Block.get_fill (x : α) (i : Fin n) : (Block.fill n x).get i = x := by
  simp [Block.get, Block.fill]

theorem Block.get_set (b : Block α n) (i j : Fin n) (x : α) :
    (b.set i x).get j = if j = i then x else b.get j := by
  by_cases h : j = i
  · subst h; simp [Block.get, Block.set]
  · have hne : i.val ≠ j.val := fun e => h (Fin.ext e.symm)
    simp [Block.get, Block.set, h, hne]

@[simp] theorem Block.get_set_self (b : Block α n) (i : Fin n) (x : α) : (b.set i x).get i = x := by
  simp [Block.get_set]

theorem Block.get_eq_getD (b : Block α n) (i : Fin n) (d : α) : b.get i = b.toList.getD i.val d := by
  simp [Block.get, b.length_eq]

end Sys2Proof
end

