-- ==== Sys2Proof/Laws/State.lean ====
section
/-! SUPPORT. One lemma per field per shared update of State, so that no later proof unfolds a record update. -/

set_option autoImplicit false

namespace Sys2Proof.Machine

variable (s : State)

@[simp] theorem State.diag_params (d : Diag) : (s.diag d).params = s.params := rfl
@[simp] theorem State.diag_cfgPid (d : Diag) : (s.diag d).cfgPid = s.cfgPid := rfl
@[simp] theorem State.diag_sb (d : Diag) : (s.diag d).sb = s.sb := rfl
@[simp] theorem State.diag_sbCnt (d : Diag) : (s.diag d).sbCnt = s.sbCnt := rfl
@[simp] theorem State.diag_pb (d : Diag) : (s.diag d).pb = s.pb := rfl
@[simp] theorem State.diag_pesActive (d : Diag) : (s.diag d).pesActive = s.pesActive := rfl
@[simp] theorem State.diag_parity (d : Diag) : (s.diag d).parity = s.parity := rfl
@[simp] theorem State.diag_lastOff (d : Diag) : (s.diag d).lastOff = s.lastOff := rfl
@[simp] theorem State.diag_fb (d : Diag) : (s.diag d).fb = s.fb := rfl
@[simp] theorem State.diag_outq (d : Diag) : (s.diag d).outq = s.outq := rfl
@[simp] theorem State.diag_halted (d : Diag) : (s.diag d).halted = s.halted := rfl
@[simp] theorem State.diag_ovf (d : Diag) : (s.diag d).ovf = s.ovf := rfl
@[simp] theorem State.diag_configured (d : Diag) : (s.diag d).configured = s.configured := rfl
@[simp] theorem State.diag_trace (d : Diag) : (s.diag d).trace = s.trace ++ [.diag d] := rfl
@[simp] theorem State.diag_taken (d : Diag) : (s.diag d).taken = s.taken := rfl
@[simp] theorem State.diag_result (d : Diag) : (s.diag d).result = s.result := rfl
@[simp] theorem State.diag_offered (d : Diag) : (s.diag d).offered = s.offered := rfl
@[simp] theorem State.diag_agenda (d : Diag) : (s.diag d).agenda = s.agenda := rfl
@[simp] theorem State.diag_draws (d : Diag) : (s.diag d).draws = s.draws := rfl

@[simp] theorem State.emitFrame_params (f : Frame) : (s.emitFrame f).params = s.params := rfl
@[simp] theorem State.emitFrame_cfgPid (f : Frame) : (s.emitFrame f).cfgPid = s.cfgPid := rfl
@[simp] theorem State.emitFrame_sb (f : Frame) : (s.emitFrame f).sb = s.sb := rfl
@[simp] theorem State.emitFrame_sbCnt (f : Frame) : (s.emitFrame f).sbCnt = s.sbCnt := rfl
@[simp] theorem State.emitFrame_pb (f : Frame) : (s.emitFrame f).pb = s.pb := rfl
@[simp] theorem State.emitFrame_pesActive (f : Frame) : (s.emitFrame f).pesActive = s.pesActive := rfl
@[simp] theorem State.emitFrame_parity (f : Frame) : (s.emitFrame f).parity = s.parity := rfl
@[simp] theorem State.emitFrame_lastOff (f : Frame) : (s.emitFrame f).lastOff = s.lastOff := rfl
@[simp] theorem State.emitFrame_fb (f : Frame) : (s.emitFrame f).fb = s.fb := rfl
@[simp] theorem State.emitFrame_outq (f : Frame) : (s.emitFrame f).outq = s.outq ++ [f] := rfl
@[simp] theorem State.emitFrame_halted (f : Frame) : (s.emitFrame f).halted = s.halted := rfl
@[simp] theorem State.emitFrame_ovf (f : Frame) : (s.emitFrame f).ovf = s.ovf := rfl
@[simp] theorem State.emitFrame_configured (f : Frame) : (s.emitFrame f).configured = s.configured := rfl
@[simp] theorem State.emitFrame_trace (f : Frame) : (s.emitFrame f).trace = s.trace ++ [.frame f] := rfl
@[simp] theorem State.emitFrame_taken (f : Frame) : (s.emitFrame f).taken = s.taken := rfl
@[simp] theorem State.emitFrame_result (f : Frame) : (s.emitFrame f).result = s.result := rfl
@[simp] theorem State.emitFrame_offered (f : Frame) : (s.emitFrame f).offered = s.offered := rfl
@[simp] theorem State.emitFrame_agenda (f : Frame) : (s.emitFrame f).agenda = s.agenda := rfl
@[simp] theorem State.emitFrame_draws (f : Frame) : (s.emitFrame f).draws = s.draws := rfl

@[simp] theorem State.raiseOvf_params : s.raiseOvf.params = s.params := rfl
@[simp] theorem State.raiseOvf_cfgPid : s.raiseOvf.cfgPid = s.cfgPid := rfl
@[simp] theorem State.raiseOvf_sb : s.raiseOvf.sb = s.sb := rfl
@[simp] theorem State.raiseOvf_sbCnt : s.raiseOvf.sbCnt = s.sbCnt := rfl
@[simp] theorem State.raiseOvf_pb : s.raiseOvf.pb = s.pb := rfl
@[simp] theorem State.raiseOvf_pesActive : s.raiseOvf.pesActive = s.pesActive := rfl
@[simp] theorem State.raiseOvf_parity : s.raiseOvf.parity = s.parity := rfl
@[simp] theorem State.raiseOvf_lastOff : s.raiseOvf.lastOff = s.lastOff := rfl
@[simp] theorem State.raiseOvf_fb : s.raiseOvf.fb = s.fb := rfl
@[simp] theorem State.raiseOvf_outq : s.raiseOvf.outq = s.outq := rfl
@[simp] theorem State.raiseOvf_halted : s.raiseOvf.halted = s.halted := rfl
@[simp] theorem State.raiseOvf_ovf : s.raiseOvf.ovf = true := rfl
@[simp] theorem State.raiseOvf_configured : s.raiseOvf.configured = s.configured := rfl
@[simp] theorem State.raiseOvf_trace : s.raiseOvf.trace = s.trace := rfl
@[simp] theorem State.raiseOvf_taken : s.raiseOvf.taken = s.taken := rfl
@[simp] theorem State.raiseOvf_result : s.raiseOvf.result = s.result := rfl
@[simp] theorem State.raiseOvf_offered : s.raiseOvf.offered = s.offered := rfl
@[simp] theorem State.raiseOvf_agenda : s.raiseOvf.agenda = s.agenda := rfl
@[simp] theorem State.raiseOvf_draws : s.raiseOvf.draws = s.draws := rfl

@[simp] theorem State.returns_params (r : Result) : (s.returns r).params = s.params := rfl
@[simp] theorem State.returns_cfgPid (r : Result) : (s.returns r).cfgPid = s.cfgPid := rfl
@[simp] theorem State.returns_sb (r : Result) : (s.returns r).sb = s.sb := rfl
@[simp] theorem State.returns_sbCnt (r : Result) : (s.returns r).sbCnt = s.sbCnt := rfl
@[simp] theorem State.returns_pb (r : Result) : (s.returns r).pb = s.pb := rfl
@[simp] theorem State.returns_pesActive (r : Result) : (s.returns r).pesActive = s.pesActive := rfl
@[simp] theorem State.returns_parity (r : Result) : (s.returns r).parity = s.parity := rfl
@[simp] theorem State.returns_lastOff (r : Result) : (s.returns r).lastOff = s.lastOff := rfl
@[simp] theorem State.returns_fb (r : Result) : (s.returns r).fb = s.fb := rfl
@[simp] theorem State.returns_outq (r : Result) : (s.returns r).outq = s.outq := rfl
@[simp] theorem State.returns_halted (r : Result) : (s.returns r).halted = s.halted := rfl
@[simp] theorem State.returns_ovf (r : Result) : (s.returns r).ovf = s.ovf := rfl
@[simp] theorem State.returns_configured (r : Result) : (s.returns r).configured = s.configured := rfl
@[simp] theorem State.returns_trace (r : Result) : (s.returns r).trace = s.trace := rfl
@[simp] theorem State.returns_taken (r : Result) : (s.returns r).taken = s.taken := rfl
@[simp] theorem State.returns_result (r : Result) : (s.returns r).result = r := rfl
@[simp] theorem State.returns_offered (r : Result) : (s.returns r).offered = s.offered := rfl
@[simp] theorem State.returns_agenda (r : Result) : (s.returns r).agenda = s.agenda := rfl
@[simp] theorem State.returns_draws (r : Result) : (s.returns r).draws = s.draws := rfl

@[simp] theorem State.writeLine_params (row : Fin 16) (line : Line) : (s.writeLine row line).params = s.params := rfl
@[simp] theorem State.writeLine_cfgPid (row : Fin 16) (line : Line) : (s.writeLine row line).cfgPid = s.cfgPid := rfl
@[simp] theorem State.writeLine_sb (row : Fin 16) (line : Line) : (s.writeLine row line).sb = s.sb := rfl
@[simp] theorem State.writeLine_sbCnt (row : Fin 16) (line : Line) : (s.writeLine row line).sbCnt = s.sbCnt := rfl
@[simp] theorem State.writeLine_pb (row : Fin 16) (line : Line) : (s.writeLine row line).pb = s.pb := rfl
@[simp] theorem State.writeLine_pesActive (row : Fin 16) (line : Line) : (s.writeLine row line).pesActive = s.pesActive := rfl
@[simp] theorem State.writeLine_parity (row : Fin 16) (line : Line) : (s.writeLine row line).parity = s.parity := rfl
@[simp] theorem State.writeLine_lastOff (row : Fin 16) (line : Line) : (s.writeLine row line).lastOff = rowOffset row := rfl
@[simp] theorem State.writeLine_fb (row : Fin 16) (line : Line) : (s.writeLine row line).fb = s.fb.set row (reverseLine line) := rfl
@[simp] theorem State.writeLine_outq (row : Fin 16) (line : Line) : (s.writeLine row line).outq = s.outq := rfl
@[simp] theorem State.writeLine_halted (row : Fin 16) (line : Line) : (s.writeLine row line).halted = s.halted := rfl
@[simp] theorem State.writeLine_ovf (row : Fin 16) (line : Line) : (s.writeLine row line).ovf = s.ovf := rfl
@[simp] theorem State.writeLine_configured (row : Fin 16) (line : Line) : (s.writeLine row line).configured = s.configured := rfl
@[simp] theorem State.writeLine_trace (row : Fin 16) (line : Line) : (s.writeLine row line).trace = s.trace := rfl
@[simp] theorem State.writeLine_taken (row : Fin 16) (line : Line) : (s.writeLine row line).taken = s.taken := rfl
@[simp] theorem State.writeLine_result (row : Fin 16) (line : Line) : (s.writeLine row line).result = s.result := rfl
@[simp] theorem State.writeLine_offered (row : Fin 16) (line : Line) : (s.writeLine row line).offered = s.offered := rfl
@[simp] theorem State.writeLine_agenda (row : Fin 16) (line : Line) : (s.writeLine row line).agenda = s.agenda := rfl
@[simp] theorem State.writeLine_draws (row : Fin 16) (line : Line) : (s.writeLine row line).draws = s.draws := rfl

@[simp] theorem State.diag_ctx (d : Diag) : (s.diag d).ctx = s.ctx := rfl
@[simp] theorem State.returns_ctx (r : Result) : (s.returns r).ctx = s.ctx := rfl
@[simp] theorem State.emitFrame_ctx (f : Frame) : (s.emitFrame f).ctx = s.ctx := rfl

/-- The last event of a trace decides whether a frame is added. -/
@[simp] theorem framesOf_append (a b : List Event) : framesOf (a ++ b) = framesOf a ++ framesOf b := by
  induction a with
  | nil => rfl
  | cons e rest ih => cases e <;> simp [framesOf, ih]

@[simp] theorem framesOf_diag (d : Diag) : framesOf [.diag d] = [] := rfl
@[simp] theorem framesOf_frame (f : Frame) : framesOf [.frame f] = [f] := rfl

end Sys2Proof.Machine
end

