-- ==== Sys2Proof/Laws/Ops.lean ====
section
/-! SUPPORT. One lemma per shared operation saying what it can do, so that proofs cite it and do not unfold it. -/

set_option autoImplicit false

namespace Sys2Proof.Machine

/-- A row's line offset is its number plus 7. -/
@[simp] theorem rowOffset_toNat (row : Fin 16) : (rowOffset row).toNat = row.val + 7 := by
  have := row.isLt
  simp [rowOffset]
  omega

/-- A row's line offset is a legal LAST_OFF. -/
theorem rowOffset_legal (row : Fin 16) : 7 ≤ (rowOffset row).toNat ∧ (rowOffset row).toNat ≤ 22 := by
  have := row.isLt
  simp
  omega

@[simp] theorem reverseLine_get (line : Line) (c : Fin 42) : (reverseLine line).get c = rev (line.get c) := by
  simp [reverseLine]

@[simp] theorem serialise_get (fb : FieldBuffer) (i : Fin 672) :
    (serialise fb).get i = (fb.get ⟨i.val / 42, by omega⟩).get ⟨i.val % 42, by omega⟩ := by
  simp [serialise]

@[simp] theorem zeroFieldBuffer_get (r : Fin 16) (c : Fin 42) : (zeroFieldBuffer.get r).get c = 0 := by
  simp [zeroFieldBuffer]

/-- A line write replaces its whole row by the reversed bytes and no other row. -/
theorem writeLine_fb_get (s : State) (row r : Fin 16) (line : Line) (c : Fin 42) :
    ((s.writeLine row line).fb.get r).get c =
      if r = row then rev (line.get c) else (s.fb.get r).get c := by
  simp only [State.writeLine_fb, Block.get_set]
  split <;> simp

/-- IN_READY is exactly HALTED = 0, OVF = 0 and OUTQ empty. -/
theorem inReady_iff (s : State) : s.inReady = true ↔ s.halted = false ∧ s.ovf = false ∧ s.outq = [] := by
  simp [State.inReady, and_assoc]

/-- A transaction before the first RESET has no next state; after it, it has exactly one. -/
theorem whenConfigured_next {s t u : State} :
    whenConfigured s t = .next u ↔ s.configured = true ∧ t = u := by
  unfold whenConfigured
  split <;> simp_all

end Sys2Proof.Machine
end

