-- ==== Sys2Proof/Laws/Teletext.lean ====
section
/-! SUPPORT. What one slot position and one data region can do to the state, said once. -/

set_option autoImplicit false

namespace Sys2Proof.Machine

theorem State.DecoderStep.refl (s : State) : s.DecoderStep s := rfl

theorem State.DecoderStep.trans {s t u : State} (h : s.DecoderStep t) (k : t.DecoderStep u) : s.DecoderStep u := by
  unfold State.DecoderStep at *
  rw [k, h]

/-- Running a slot's class is running its operation of the opcode table. -/
theorem exec_slot (op : SlotOp) (s : State) : exec op.instr s = .next (runSlot op s) := by
  cases op <;> rfl

theorem runSlot_decoderStep (op : SlotOp) (s : State) : s.DecoderStep (runSlot op s) := by
  cases op <;> rfl

/-- A position with fewer than 46 bytes left changes nothing. -/
theorem runSlot_tail {rest : List Byte} (h : rest.length < 46) (s : State) :
    runSlot (decodeSlot s.ctx rest) s = s := by
  simp [decodeSlot, h, runSlot, duTailDrop]

theorem walkSlots_tail {rest : List Byte} (h : rest.length < 46) (fuel : Nat) (s : State) :
    walkSlots fuel rest s = s := by
  cases fuel with
  | zero => rfl
  | succ n => simp only [walkSlots, if_pos h, runSlot_tail h]

theorem walkSlots_slot {rest : List Byte} (h : 46 ≤ rest.length) (fuel : Nat) (s : State) :
    walkSlots (fuel + 1) rest s = walkSlots fuel (rest.drop 46) (runSlot (decodeSlot s.ctx rest) s) := by
  simp only [walkSlots, if_neg (Nat.not_lt.mpr h)]

/-- More fuel than slots changes nothing. -/
theorem walkSlots_fuel : ∀ (fuel : Nat) {rest : List Byte} (s : State), rest.length ≤ fuel →
    ∀ k, walkSlots (fuel + k) rest s = walkSlots fuel rest s := by
  intro fuel
  induction fuel with
  | zero =>
    intro rest s h k
    rw [walkSlots_tail (by omega), walkSlots_tail (by omega)]
  | succ n ih =>
    intro rest s h k
    by_cases hs : rest.length < 46
    · rw [walkSlots_tail hs, walkSlots_tail hs]
    · have hs' : 46 ≤ rest.length := Nat.not_lt.mp hs
      rw [show n + 1 + k = (n + k) + 1 from by omega, walkSlots_slot hs', walkSlots_slot hs']
      exact ih _ (by simp only [List.length_drop]; omega) k

theorem walkSlots_decoderStep (fuel : Nat) (rest : List Byte) (s : State) :
    s.DecoderStep (walkSlots fuel rest s) := by
  induction fuel generalizing rest s with
  | zero => exact State.DecoderStep.refl s
  | succ n ih =>
    unfold walkSlots
    split
    · exact runSlot_decoderStep _ s
    · exact (runSlot_decoderStep _ s).trans (ih _ _)

/-- A region changes only what the decoder owns, OUTQ and the trace. -/
theorem decodeRegion_decoderStep (region : List Byte) (s : State) : s.DecoderStep (decodeRegion region s) :=
  walkSlots_decoderStep _ _ s

/-- A property that every slot operation keeps is kept by the whole region. -/
theorem decodeRegion_keeps (P : State → Prop) (step : ∀ op s, P s → P (runSlot op s)) (region : List Byte)
    {s : State} (h : P s) : P (decodeRegion region s) := by
  suffices ∀ fuel rest s, P s → P (walkSlots fuel rest s) from this _ _ s h
  intro fuel
  induction fuel with
  | zero => exact fun _ s h => h
  | succ n ih =>
    intro rest s h
    unfold walkSlots
    split
    · exact step _ s h
    · exact ih _ _ (step _ s h)

/-- A slot operation adds to the trace's frames the Field Buffer if it is DU_FIELD_FLIP, and nothing otherwise. -/
theorem runSlot_frames (op : SlotOp) (s : State) :
    framesOf (runSlot op s).trace = framesOf s.trace ++
      match op with
      | .fieldFlip _ _ _ => [serialise s.fb]
      | .tailDrop _ | .skipId _ | .skipShort | .rejOffset _ | .lineDecreasing _ _ | .lineInOrder _ _ => [] := by
  cases op <;>
    simp [runSlot, duTailDrop, duSkipId, duSkipShort, duRejOffset, duFieldFlip, duLineDecreasing, duLine, framesOf_append,
      framesOf]

end Sys2Proof.Machine
end

