-- ==== Sys2Proof/Laws/Demux.lean ====
section
/-! SUPPORT. What delivering a packet, one fragment, one stride and one input byte can do to the state, said once. -/

set_option autoImplicit false

namespace Sys2Proof.Machine

theorem State.DecoderStep.toStride {s t : State} (h : s.DecoderStep t) : s.StrideStep t := by
  unfold State.DecoderStep at h
  unfold State.StrideStep
  rw [h]

theorem State.StrideStep.trans {s t u : State} (h : s.StrideStep t) (k : t.StrideStep u) : s.StrideStep u := by
  unfold State.StrideStep at *
  rw [k, h]

/-- A delivered packet changes only what the decoder owns, OUTQ and the trace. -/
theorem pesDeliver_decoderStep (q : List Byte) (s : State) : s.DecoderStep (pesDeliver q s) := by
  unfold pesDeliver
  split
  case h_7 region _ => exact decodeRegion_decoderStep region s
  all_goals rfl

theorem closePacket_strideStep (s : State) : s.StrideStep (closePacket s) := by
  unfold closePacket
  split
  · rfl
  · exact State.StrideStep.trans (t := { s with pb := [] }) rfl (pesDeliver_decoderStep s.pb _).toStride

/-- After the first half of PES_START nothing is left in PB. -/
theorem closePacket_pb (s : State) : (closePacket s).pb = [] := by
  unfold closePacket
  split
  · rename_i h
    simpa using h
  · rw [pesDeliver_decoderStep s.pb _]

theorem pesOverflow_strideStep (s : State) : s.StrideStep (pesOverflow s) := rfl

theorem openPacket_strideStep (payload : List Byte) (s : State) : s.StrideStep (openPacket payload s) := by
  unfold openPacket
  split <;> rfl

theorem pesFragment_strideStep (payload : List Byte) (isStart : Bool) (s : State) :
    s.StrideStep (pesFragment payload isStart s) := by
  unfold pesFragment
  split
  · exact (closePacket_strideStep s).trans (openPacket_strideStep _ _)
  · unfold pesContAppend
    split <;> rfl
  · rfl

/-- Processing a stride changes only PB, PES_ACTIVE, OVF, the decoder's state, OUTQ and the trace. -/
theorem processStride_strideStep (s : State) : s.StrideStep (processStride s) := by
  unfold processStride
  split
  case h_4 pusi payload _ => exact pesFragment_strideStep payload pusi s
  case h_6 pusi len rest _ => exact pesFragment_strideStep _ pusi s
  all_goals rfl

/-- Running a fragment's class is running its operation of the opcode table. -/
theorem exec_fragment (isStart : Bool) (payload : List Byte) (s : State) :
    exec (decodeFragment isStart s.pesActive payload).instr s = .next (pesFragment payload isStart s) := by
  unfold pesFragment
  generalize decodeFragment isStart s.pesActive payload = op
  cases op <;> rfl

/-- Running a stride's class is running its operation of the opcode table. -/
theorem exec_stride (s : State) : exec (decodeStride s.ctx s.sb).instr s = .next (processStride s) := by
  unfold processStride
  generalize decodeStride s.ctx s.sb = op
  cases op <;> rfl

/-- The meanings of PES_START and PES_CONT_APPEND overflow exactly when the cap check of their class fires. -/
theorem overCap_iff (s : State) (n : Nat) :
    s.overCap n = true ↔ ∃ cap, s.params.pesCap = some cap ∧ cap < n := by
  unfold State.overCap
  cases s.params.pesCap <;> simp

/-- An operation that hands a fragment on has exactly the effect of the reassembler operation it runs, in the state it runs in. -/
theorem exec_handed {i : Instr} {s u : State} {op : FragmentOp} (h : handed i s = some (u, op))
    (hc : s.configured = true) : exec i s = exec op.instr u := by
  cases i <;> simp only [handed, reduceCtorEq, Option.some.injEq, Prod.mk.injEq] at h
  case inByte b =>
    split at h
    · rename_i hr
      obtain ⟨fragment, hf, he⟩ := Option.map_eq_some_iff.mp h
      obtain ⟨rfl, rfl⟩ := Prod.mk.inj he
      have hx : exec (.inByte b) s = .next (processStride { s with sb := s.sb.set s.sbCnt b, sbCnt := 0 }) := by
        simp only [exec, execInByte, whenConfigured, hc, hr.1, if_true, strideAssembly]
        rw [dif_pos hr.2]
      rw [hx, ← exec_stride]
      change exec (decodeStride s.ctx (s.sb.set s.sbCnt b)).instr _ = _
      generalize decodeStride s.ctx (s.sb.set s.sbCnt b) = op at hf
      cases op <;> simp only [strideFragment, reduceCtorEq, Option.some.injEq] at hf <;> subst hf
      case afc1 pusi payload =>
        exact (exec_fragment pusi payload { s with sb := s.sb.set s.sbCnt b, sbCnt := 0 }).symm
      case afc3 pusi len rest =>
        exact (exec_fragment pusi (afc3Payload len rest) { s with sb := s.sb.set s.sbCnt b, sbCnt := 0 }).symm
    · cases h
  case tsAfc1Payload pusi payload =>
    obtain ⟨rfl, rfl⟩ := h
    exact (exec_fragment pusi payload s).symm
  case tsAfc3Payload pusi len rest =>
    obtain ⟨rfl, rfl⟩ := h
    exact (exec_fragment pusi (afc3Payload len rest) s).symm
  all_goals
    obtain ⟨rfl, rfl⟩ := h
    rfl

end Sys2Proof.Machine
end

