-- ==== Sys2Proof/Laws/PerInstr.lean ====
section
/-! SUPPORT. The family RoundTrip: a well-formed operation's own unit, presented to the decoder in the context it is encoded for,
is read back as that operation, with every operand at every value (30_encoding.md R61 to R71). One lemma per constructor of Instr. -/

set_option autoImplicit false

namespace Sys2Proof.Laws.RoundTrip

open Sys2Proof.Machine

/-- The statement of the family. -/
def Statement (i : Instr) : Prop :=
  ∀ (c : Ctx) (f : Format) (bs : List Byte), WellFormed i = true → selectedBy c i = true →
    encode c i = some (f, bs) → decode c f bs = .ok i

/-! Fields of the encoded forms. -/

theorem zeros_length (n : Nat) : (zeros n).length = n := by simp [zeros]

theorem byteAt_zero (b : Byte) (bs : List Byte) : byteAt (b :: bs) 0 = b := rfl

theorem byteAt_succ (b : Byte) (bs : List Byte) (n : Nat) : byteAt (b :: bs) (n + 1) = byteAt bs n := rfl

theorem byteAt_take {bs : List Byte} {n i : Nat} (h : i < n) : byteAt (bs.take n) i = byteAt bs i := by
  simp [byteAt, List.getD_eq_getElem?_getD, h]

theorem be24_bytes24 (v : BitVec 24) :
    be24 (v.extractLsb' 16 8) (v.extractLsb' 8 8) (v.extractLsb' 0 8) = v := by
  apply BitVec.eq_of_getLsbD_eq
  intro i hi
  unfold be24
  rw [BitVec.getLsbD_append, BitVec.getLsbD_append]
  by_cases h1 : i < 8
  · have h2 : i < 16 := by omega
    simp [h1, h2]
  · by_cases h2 : i < 16
    · have h3 : i - 8 < 8 := by omega
      have h4 : 8 + (i - 8) = i := by omega
      simp [h1, h2, h3, h4]
    · have h3 : i - 16 < 8 := by omega
      have h4 : 16 + (i - 16) = i := by omega
      simp [h2, h3, h4]

theorem be16_bytes16 (v : BitVec 16) : be16 (v.extractLsb' 8 8) (v.extractLsb' 0 8) = v := by
  apply BitVec.eq_of_getLsbD_eq
  intro i hi
  unfold be16
  rw [BitVec.getLsbD_append]
  by_cases h2 : i < 8
  · simp [h2]
  · have h3 : i - 8 < 8 := by omega
    have h4 : 8 + (i - 8) = i := by omega
    simp [h2, h3, h4]

theorem tsBytes_length (sync : Byte) (pusi : Bool) (pid : Pid) (afc : BitVec 2) {body : List Byte}
    (h : body.length = 184) : (tsBytes sync pusi pid afc body).length = 188 := by
  simp [tsBytes, h]

theorem pusi_bit (pusi : Bool) (hi : BitVec 5) :
    (BitVec.ofBool false ++ (BitVec.ofBool pusi ++ (0#1 ++ hi)) : BitVec 8).getLsbD 6 = pusi := by
  revert pusi hi; decide

theorem pid_high (pusi : Bool) (hi : BitVec 5) :
    (BitVec.ofBool false ++ (BitVec.ofBool pusi ++ (0#1 ++ hi)) : BitVec 8).setWidth 5 = hi := by
  revert pusi hi; decide

theorem pid_join (pid : Pid) : (pid.extractLsb' 8 5 ++ pid.extractLsb' 0 8 : BitVec 13) = pid := by
  apply BitVec.eq_of_getLsbD_eq
  intro i hi
  rw [BitVec.getLsbD_append]
  by_cases h2 : i < 8
  · simp [h2]
  · have h3 : i - 8 < 5 := by omega
    have h4 : 8 + (i - 8) = i := by omega
    simp [h2, h3, h4]

theorem pid_bits (pusi : Bool) (pid : Pid) :
    ((BitVec.ofBool false ++ (BitVec.ofBool pusi ++ (0#1 ++ pid.extractLsb' 8 5)) : BitVec 8).setWidth 5 ++
      pid.extractLsb' 0 8 : BitVec 13) = pid := by
  rw [pid_high, pid_join]

theorem afc_bits (afc : BitVec 2) : ((0#2 ++ (afc ++ 0#4) : BitVec 8)).extractLsb' 4 2 = afc := by
  revert afc; decide

/-- The fields of a TS stride built by the encoder. -/
theorem tsBytes_fields (sync : Byte) (pusi : Bool) (pid : Pid) (afc : BitVec 2) (body : List Byte)
    (h : (tsBytes sync pusi pid afc body).length = 188) :
    let sb : Stride := ⟨tsBytes sync pusi pid afc body, h⟩
    syncField sb = sync ∧ pusiField sb = pusi ∧ pidField sb = pid ∧ afcField sb = afc := by
  refine ⟨rfl, pusi_bit pusi _, pid_bits pusi pid, afc_bits afc⟩

theorem decode_stride (c : Ctx) (bs : List Byte) (h : bs.length = 188) :
    decode c .tsPacket bs = .ok (decodeStride c ⟨bs, h⟩).instr := by
  simp [decode, decodeStrideUnit, h]

/-! TS Demultiplexer. -/

theorem tsSyncErr (sync : Byte) : Statement (.tsSyncErr sync) := by
  intro c f bs _ hs he
  simp only [encode, Option.some.injEq, Prod.mk.injEq] at he
  obtain ⟨rfl, rfl⟩ := he
  have hl : (sync :: zeros 187).length = 188 := by rw [List.length_cons, zeros_length]
  have hne : sync ≠ c.sync := by simpa [selectedBy] using hs
  rw [decode_stride c _ hl]
  have : syncField ⟨sync :: zeros 187, hl⟩ = sync := rfl
  rw [decodeStride, this, if_pos hne]
  rfl

theorem tsPidSkip (pid : Pid) : Statement (.tsPidSkip pid) := by
  intro c f bs _ hs he
  simp only [encode, Option.some.injEq, Prod.mk.injEq] at he
  obtain ⟨rfl, rfl⟩ := he
  have hl := tsBytes_length c.sync false pid 0 (zeros_length 184)
  obtain ⟨h1, _, h3, _⟩ := tsBytes_fields c.sync false pid 0 (zeros 184) hl
  have hne : pid ≠ c.pid := by simpa [selectedBy] using hs
  rw [decode_stride c _ hl]
  rw [decodeStride, if_neg (not_not_intro h1), h3, if_pos hne]
  rfl

/-- Past the sync and PID checks the tree looks at AFC only. -/
theorem decodeStride_matched {c : Ctx} {sb : Stride} (h1 : syncField sb = c.sync) (h3 : pidField sb = c.pid) :
    decodeStride c sb =
      if afcField sb = 0 then .afc0
      else if afcField sb = 1 then .afc1 (pusiField sb) (slice sb.toList 4 187)
      else if afcField sb = 2 then .afc2
      else .afc3 (pusiField sb) (sb.get 4) (slice sb.toList 5 187) := by
  rw [decodeStride, if_neg (not_not_intro h1), if_neg (not_not_intro h3)]

theorem tsAfc0NoPayload : Statement .tsAfc0NoPayload := by
  intro c f bs _ _ he
  simp only [encode, Option.some.injEq, Prod.mk.injEq] at he
  obtain ⟨rfl, rfl⟩ := he
  have hl := tsBytes_length c.sync false c.pid 0 (zeros_length 184)
  obtain ⟨h1, _, h3, h4⟩ := tsBytes_fields c.sync false c.pid 0 (zeros 184) hl
  rw [decode_stride c _ hl, decodeStride_matched h1 h3, h4]
  rfl

theorem tsAfc1Payload (pusi : Bool) (payload : List Byte) : Statement (.tsAfc1Payload pusi payload) := by
  intro c f bs hw _ he
  simp only [encode, Option.some.injEq, Prod.mk.injEq] at he
  obtain ⟨rfl, rfl⟩ := he
  have hp : payload.length = 184 := by simpa [WellFormed] using hw
  have hl := tsBytes_length c.sync pusi c.pid 1 hp
  obtain ⟨h1, h2, h3, h4⟩ := tsBytes_fields c.sync pusi c.pid 1 payload hl
  have hsl : slice (tsBytes c.sync pusi c.pid 1 payload) 4 187 = payload := by
    simp [slice, tsBytes, List.take_of_length_le (Nat.le_of_eq hp)]
  rw [decode_stride c _ hl, decodeStride_matched h1 h3, h4, h2, hsl]
  rfl

theorem tsAfc2NoPayload : Statement .tsAfc2NoPayload := by
  intro c f bs _ _ he
  simp only [encode, Option.some.injEq, Prod.mk.injEq] at he
  obtain ⟨rfl, rfl⟩ := he
  have hl := tsBytes_length c.sync false c.pid 2 (zeros_length 184)
  obtain ⟨h1, _, h3, h4⟩ := tsBytes_fields c.sync false c.pid 2 (zeros 184) hl
  rw [decode_stride c _ hl, decodeStride_matched h1 h3, h4]
  rfl

theorem tsAfc3Payload (pusi : Bool) (len : Byte) (rest : List Byte) : Statement (.tsAfc3Payload pusi len rest) := by
  intro c f bs hw _ he
  simp only [encode, Option.some.injEq, Prod.mk.injEq] at he
  obtain ⟨rfl, rfl⟩ := he
  have hp : rest.length = 183 := by simpa [WellFormed] using hw
  have hl := tsBytes_length c.sync pusi c.pid 3 (body := len :: rest) (by simp [hp])
  obtain ⟨h1, h2, h3, h4⟩ := tsBytes_fields c.sync pusi c.pid 3 (len :: rest) hl
  have hsl : slice (tsBytes c.sync pusi c.pid 3 (len :: rest)) 5 187 = rest := by
    simp [slice, tsBytes, List.take_of_length_le (Nat.le_of_eq hp)]
  have hg : Block.get (⟨tsBytes c.sync pusi c.pid 3 (len :: rest), hl⟩ : Stride) 4 = len := rfl
  rw [decode_stride c _ hl, decodeStride_matched h1 h3, h4, h2, hsl, hg]
  rfl

/-! Host transactions and BITREV. -/

theorem inByte (b : Byte) : Statement (.inByte b) := by
  intro c f bs _ _ he
  simp only [encode, Option.some.injEq, Prod.mk.injEq] at he
  obtain ⟨rfl, rfl⟩ := he
  rfl

theorem outFrame : Statement .outFrame := by
  intro c f bs _ _ he
  simp only [encode, Option.some.injEq, Prod.mk.injEq] at he
  obtain ⟨rfl, rfl⟩ := he
  rfl

theorem diagBytes_decode (d : Diag) : decodeDiag (diagBytes d) = .ok (.diagEvent d) := by
  have narrow (n : Nat) (h : n ≤ 24) (v : BitVec n) : (v.setWidth 24).setWidth n = v := by
    rw [BitVec.setWidth_setWidth_of_le _ h, BitVec.setWidth_eq]
  cases d <;>
    simp [decodeDiag, diagBytes, diagCode, diagArgs, bytes24, diagOf, be24_bytes24, narrow]

theorem diagEvent (d : Diag) : Statement (.diagEvent d) := by
  intro c f bs _ _ he
  simp only [encode, Option.some.injEq, Prod.mk.injEq] at he
  obtain ⟨rfl, rfl⟩ := he
  exact diagBytes_decode d

theorem cancel : Statement .cancel := by
  intro c f bs _ _ he
  simp only [encode, Option.some.injEq, Prod.mk.injEq] at he
  obtain ⟨rfl, rfl⟩ := he
  rfl

theorem statusRead : Statement .statusRead := by
  intro c f bs _ _ he
  simp only [encode, Option.some.injEq, Prod.mk.injEq] at he
  obtain ⟨rfl, rfl⟩ := he
  rfl

theorem reset (pid : Pid) : Statement (.reset pid) := by
  intro c f bs _ _ he
  simp only [encode, Option.some.injEq, Prod.mk.injEq] at he
  obtain ⟨rfl, rfl⟩ := he
  have hb := pid.isLt
  have h : (pid.setWidth 16).toNat ≤ 0x1FFF := by
    rw [BitVec.toNat_setWidth]
    omega
  have hn : (pid.setWidth 16).setWidth 13 = pid := by
    rw [BitVec.setWidth_setWidth_of_le _ (by decide), BitVec.setWidth_eq]
  show decodeReset _ _ = _
  rw [decodeReset, be16_bytes16, if_pos h, hn]

theorem bitrev (b : Byte) : Statement (.bitrev b) := by
  intro c f bs _ _ he
  simp only [encode, Option.some.injEq, Prod.mk.injEq] at he
  obtain ⟨rfl, rfl⟩ := he
  rfl

/-! PES Reassembler. -/

theorem fragment_unit (c : Ctx) (w : Byte) (payload : List Byte) (hw : w.toNat < 4) (hp : payload.length ≤ 184) :
    decode c .fragment (w :: payload) = .ok (decodeFragment (w.getLsbD 1) (w.getLsbD 0) payload).instr := by
  simp [decode, decodeFragmentUnit, Nat.not_le.mpr hw, Nat.not_lt.mpr hp]

theorem pesStart (payload : List Byte) : Statement (.pesStart payload) := by
  intro c f bs hw _ he
  simp only [encode, Option.some.injEq, Prod.mk.injEq] at he
  obtain ⟨rfl, rfl⟩ := he
  exact fragment_unit c _ payload (by decide) (by simpa [WellFormed] using hw)

theorem pesContAppend (payload : List Byte) : Statement (.pesContAppend payload) := by
  intro c f bs hw _ he
  simp only [encode, Option.some.injEq, Prod.mk.injEq] at he
  obtain ⟨rfl, rfl⟩ := he
  exact fragment_unit c _ payload (by decide) (by simpa [WellFormed] using hw)

theorem pesContDiscard (payload : List Byte) : Statement (.pesContDiscard payload) := by
  intro c f bs hw _ he
  simp only [encode, Option.some.injEq, Prod.mk.injEq] at he
  obtain ⟨rfl, rfl⟩ := he
  exact fragment_unit c _ payload (by decide) (by simpa [WellFormed] using hw)

theorem pesOverflow : Statement .pesOverflow := by
  intro c f bs _ _ he
  simp [encode] at he

/-! PES Header Parser. -/

theorem packet_unit (c : Ctx) {p : List Byte} (h : p ≠ []) : decode c .pesPacket p = .ok (decodePacket p).instr := by
  cases p with
  | nil => exact absurd rfl h
  | cons a t => rfl

/-- The header fields of a packet built by the encoder. -/
theorem pesBytes_fields (sid : Byte) (pktLen : BitVec 16) (data : List Byte) :
    (pesBytes sid pktLen data).length = 9 + data.length ∧ pesPrefix (pesBytes sid pktLen data) = 1 ∧
      pesStreamId (pesBytes sid pktLen data) = sid ∧ pesPktLen (pesBytes sid pktLen data) = pktLen ∧
      pesStartOff (pesBytes sid pktLen data) = 9 := by
  refine ⟨?_, ?_, rfl, be16_bytes16 pktLen, rfl⟩
  · rw [pesBytes, List.length_append]
    rfl
  · show be24 0x00 0x00 0x01 = 1
    decide

theorem pesRejShort (len : Nat) : Statement (.pesRejShort len) := by
  intro c f bs hw _ he
  simp only [encode, Option.some.injEq, Prod.mk.injEq] at he
  obtain ⟨rfl, rfl⟩ := he
  have hb : 1 ≤ len ∧ len < 9 := by simpa [WellFormed] using hw
  have hne : zeros len ≠ [] := by
    intro h
    have := congrArg List.length h
    rw [zeros_length] at this
    simp at this
    omega
  rw [packet_unit c hne]
  simp [decodePacket, zeros_length, hb.2, PacketOp.instr]

theorem pesRejPrefix (pre : BitVec 24) : Statement (.pesRejPrefix pre) := by
  intro c f bs hw _ he
  simp only [encode, Option.some.injEq, Prod.mk.injEq] at he
  obtain ⟨rfl, rfl⟩ := he
  have hne : pre ≠ 1 := by simpa [WellFormed] using hw
  have hp : pesPrefix (bytes24 pre ++ zeros 6) = pre := be24_bytes24 pre
  have hl : (bytes24 pre ++ zeros 6).length = 9 := by simp [bytes24, zeros]
  rw [packet_unit c (by simp [bytes24])]
  simp only [decodePacket, hl, hp, if_pos hne, PacketOp.instr]
  simp

theorem pesRejStreamId (sid : Byte) : Statement (.pesRejStreamId sid) := by
  intro c f bs hw _ he
  simp only [encode, Option.some.injEq, Prod.mk.injEq] at he
  obtain ⟨rfl, rfl⟩ := he
  have hne : sid ≠ 0xBD := by simpa [WellFormed] using hw
  obtain ⟨hl, hp, hs, _, _⟩ := pesBytes_fields sid 0 []
  rw [packet_unit c (by simp [pesBytes])]
  simp only [decodePacket, hl, hp, hs, if_pos hne, PacketOp.instr]
  simp

theorem pesRejTrunc (pktLen : BitVec 16) : Statement (.pesRejTrunc pktLen) := by
  intro c f bs hw _ he
  simp only [encode, Option.some.injEq, Prod.mk.injEq] at he
  obtain ⟨rfl, rfl⟩ := he
  have hb : 3 < pktLen.toNat := by simpa [WellFormed] using hw
  have hz : pktLen ≠ 0 := by
    rintro rfl
    simp at hb
  obtain ⟨hl, hp, hs, hk, _⟩ := pesBytes_fields 0xBD pktLen []
  have hend : pesEndOff (pesBytes 0xBD pktLen []) = 6 + pktLen.toNat := by
    rw [pesEndOff, hk, if_pos hz]
  have hlong : 9 + ([] : List Byte).length < 6 + pktLen.toNat := by
    rw [List.length_nil]
    omega
  rw [packet_unit c (by simp [pesBytes]), decodePacket, hl, if_neg (by omega), hp, if_neg (not_not_intro rfl),
    hs, if_neg (not_not_intro rfl), hend, if_pos hlong, hk]
  rfl

/-- A packet with PKTLEN 0 and no header data is past every check before the emptiness check. -/
theorem decode_unbounded (data : List Byte) :
    decodePacket (pesBytes 0xBD 0 data) =
      if data.length = 0 then .rejEmpty
      else if !dataIdOk (byteAt data 0) then .rejDataId (byteAt data 0) else .accept data := by
  obtain ⟨hl, hp, hs, hk, hst⟩ := pesBytes_fields 0xBD 0 data
  have hend : pesEndOff (pesBytes 0xBD 0 data) = 9 + data.length := by
    rw [pesEndOff, hk, if_neg (not_not_intro rfl), hl]
  have hid : byteAt (pesBytes 0xBD 0 data) 9 = byteAt data 0 := rfl
  have hr : pesRegion (pesBytes 0xBD 0 data) = data := by
    rw [pesRegion, hst, hend, show 9 + data.length - 9 = data.length from by omega]
    exact List.take_length
  rw [decodePacket, hl, if_neg (by omega), hp, if_neg (not_not_intro rfl), hs, if_neg (not_not_intro rfl), hend,
    if_neg (by omega), hst, hid, hr]
  by_cases h : data.length = 0
  · rw [if_pos (by omega), if_pos h]
  · rw [if_neg (by omega), if_neg h]

theorem pesRejEmpty : Statement .pesRejEmpty := by
  intro c f bs _ _ he
  simp only [encode, Option.some.injEq, Prod.mk.injEq] at he
  obtain ⟨rfl, rfl⟩ := he
  rw [packet_unit c (by simp [pesBytes]), decode_unbounded]
  rfl

theorem pesRejDataId (dataId : Byte) : Statement (.pesRejDataId dataId) := by
  intro c f bs hw _ he
  simp only [encode, Option.some.injEq, Prod.mk.injEq] at he
  obtain ⟨rfl, rfl⟩ := he
  have hb : (!dataIdOk dataId) = true := by simpa [WellFormed] using hw
  rw [packet_unit c (by simp [pesBytes]), decode_unbounded]
  simp only [byteAt_zero, hb]
  rfl

theorem pesAccept (region : List Byte) : Statement (.pesAccept region) := by
  intro c f bs hw _ he
  simp only [encode, Option.some.injEq, Prod.mk.injEq] at he
  obtain ⟨rfl, rfl⟩ := he
  obtain ⟨hne, hok⟩ : region ≠ [] ∧ dataIdOk (byteAt region 0) = true := by simpa [WellFormed] using hw
  rw [packet_unit c (by simp [pesBytes]), decode_unbounded]
  simp [hne, hok, PacketOp.instr]

/-! Teletext Field Decoder. -/

theorem slot_unit (c : Ctx) (rest : List Byte) : decode c .duSlot rest = .ok (decodeSlot c rest).instr := by
  cases rest <;> rfl

theorem duTailDrop (left : Nat) : Statement (.duTailDrop left) := by
  intro c f bs hw _ he
  simp only [encode, Option.some.injEq, Prod.mk.injEq] at he
  obtain ⟨rfl, rfl⟩ := he
  have hb : left < 46 := by simpa [WellFormed] using hw
  rw [slot_unit]
  simp [decodeSlot, zeros_length, hb, SlotOp.instr]

theorem duSkipId (duId : Byte) : Statement (.duSkipId duId) := by
  intro c f bs hw _ he
  simp only [encode, Option.some.injEq, Prod.mk.injEq] at he
  obtain ⟨rfl, rfl⟩ := he
  have hb : (!duIdOk duId) = true := by simpa [WellFormed] using hw
  have hl : (duId :: zeros 45).length = 46 := by simp [zeros]
  have h0 : byteAt ((duId :: zeros 45).take 46) 0 = duId := rfl
  rw [slot_unit]
  simp only [decodeSlot, hl, h0, hb]
  rfl

theorem duSkipShort : Statement .duSkipShort := by
  intro c f bs _ _ he
  simp [encode] at he

/-- The fields of a slot built by the encoder. -/
theorem duBytes_fields (fp : BitVec 1) (off : BitVec 5) (line : Line) :
    (duBytes fp off line).length = 46 ∧ byteAt (duBytes fp off line) 0 = 0x02 ∧
      slotParity (duBytes fp off line) = fp ∧ slotOffset (duBytes fp off line) = off ∧
      slotLine (duBytes fp off line) = line := by
  refine ⟨?_, rfl, ?_, ?_, ?_⟩
  · simp [duBytes, line.length_eq]
  · show ((0b11#2 ++ (fp ++ off) : BitVec 8)).extractLsb' 5 1 = fp
    revert fp off
    decide
  · show ((0b11#2 ++ (fp ++ off) : BitVec 8)).setWidth 5 = off
    revert fp off
    decide
  · apply Block.ext_get
    intro i
    rw [slotLine, Block.get_tabulate, Block.get_eq_getD line i 0]
    show byteAt ([0x02, 0x2C, (0b11#2 ++ (fp ++ off) : BitVec 8), 0xE4] ++ line.toList) (4 + i.val) = _
    simp [byteAt, List.getD_eq_getElem?_getD, Nat.add_comm]

/-- What the tree makes of a slot built by the encoder. -/
theorem decode_duBytes (c : Ctx) (fp : BitVec 1) (off : BitVec 5) (line : Line) :
    decodeSlot c (duBytes fp off line) =
      if h : 7 ≤ off.toNat ∧ off.toNat ≤ 22 then
        if fp ≠ c.parity then .fieldFlip fp ⟨off.toNat - 7, by omega⟩ line
        else if off.toNat < c.lastOff.toNat then .lineDecreasing ⟨off.toNat - 7, by omega⟩ line
        else .lineInOrder ⟨off.toNat - 7, by omega⟩ line
      else .rejOffset off := by
  obtain ⟨hl, h0, hp, ho, hline⟩ := duBytes_fields fp off line
  have ht : (duBytes fp off line).take 46 = duBytes fp off line := List.take_of_length_le (Nat.le_of_eq hl)
  have hd : ((duBytes fp off line).drop 2).length = 44 := by simp [hl]
  have hid : duIdOk 0x02 = true := rfl
  simp only [decodeSlot, hl, ht, h0, hd, hp, hline, hid, ho]
  simp

theorem rowOffset_row (row : Fin 16) : (⟨(rowOffset row).toNat - 7, by have := row.isLt; simp⟩ : Fin 16) = row := by
  apply Fin.ext
  simp

theorem duRejOffset (off : BitVec 5) : Statement (.duRejOffset off) := by
  intro c f bs hw _ he
  simp only [encode, Option.some.injEq, Prod.mk.injEq] at he
  obtain ⟨rfl, rfl⟩ := he
  have hb : off.toNat < 7 ∨ 22 < off.toNat := by simpa [WellFormed] using hw
  rw [slot_unit, decode_duBytes, dif_neg (by omega)]
  rfl

theorem duFieldFlip (fp : BitVec 1) (row : Fin 16) (line : Line) : Statement (.duFieldFlip fp row line) := by
  intro c f bs _ hs he
  simp only [encode, Option.some.injEq, Prod.mk.injEq] at he
  obtain ⟨rfl, rfl⟩ := he
  have hne : fp ≠ c.parity := by simpa [selectedBy] using hs
  rw [slot_unit, decode_duBytes, dif_pos (rowOffset_legal row), if_pos hne, rowOffset_row]
  rfl

theorem duLineDecreasing (row : Fin 16) (line : Line) : Statement (.duLineDecreasing row line) := by
  intro c f bs _ hs he
  simp only [encode, Option.some.injEq, Prod.mk.injEq] at he
  obtain ⟨rfl, rfl⟩ := he
  have hlt : (rowOffset row).toNat < c.lastOff.toNat := by simpa [selectedBy] using hs
  rw [slot_unit, decode_duBytes, dif_pos (rowOffset_legal row), if_neg (by simp), if_pos hlt, rowOffset_row]
  rfl

theorem duLine (row : Fin 16) (line : Line) : Statement (.duLine row line) := by
  intro c f bs _ hs he
  simp only [encode, Option.some.injEq, Prod.mk.injEq] at he
  obtain ⟨rfl, rfl⟩ := he
  have hge : c.lastOff.toNat ≤ (rowOffset row).toNat := by simpa [selectedBy] using hs
  rw [slot_unit, decode_duBytes, dif_pos (rowOffset_legal row), if_neg (by simp), if_neg (by omega), rowOffset_row]
  rfl

end Sys2Proof.Laws.RoundTrip
end

