-- ==== Sys2Proof/Tests/Slice0.lean ====
section
/-! SUPPORT. The model's own tests: ill-formed terms refused, words written out from the spec's encodings decoded, one step per
instruction with results from the rules' examples and from 95_test_vectors.md, and a witness for the hypotheses of every statement. -/

set_option autoImplicit false
set_option Elab.async false

namespace Sys2Proof.Tests

open Sys2Proof Sys2Proof.Machine

/-! ## Helpers -/

/-- `SEQ(n, v)` of 95_test_vectors.md: n bytes counting up from v, modulo 256. -/
def seq (n v : Nat) : List Byte := (List.range n).map fun i => BitVec.ofNat 8 (v + i)

/-- Bytes padded with zeros to a stride. -/
def stride (bs : List Byte) : Stride := Block.tabulate fun i => byteAt bs i.val

/-- A slot `[id 2C d0 E4]` with the line `SEQ(42, 1)`. -/
def slot (id d0 : Byte) : List Byte := [id, 0x2C, d0, 0xE4] ++ seq 42 1

/-- The line `SEQ(42, 1)`. -/
def line1 : Line := Block.tabulate fun c => BitVec.ofNat 8 (1 + c.val)

/-- The line `SEQ(42, 1)` bit-reversed: 80 40 C0 ... 54. -/
def line1Reversed : List Byte := (seq 42 1).map rev

/-- The block reset with PID 0x0835, the PID of the spec's examples. -/
def s0 : State := State.resetOf defaultParams 0x0835

/-- The comparisons at that state. -/
def c0 : Ctx := ⟨0x47, 0x0835, 0, 0⟩

/-- A frame whose bytes are all `b`. -/
def frameOf (b : Byte) : Frame := Block.fill 672 b

/-- The outcome is a next state with this property. -/
def nextIs (o : Host.Outcome State Fault Refusal) (p : State → Bool) : Bool :=
  match o with
  | .next t => p t
  | .fault _ => false
  | .refused _ => false

/-- The outcome is this next state. -/
def nextEq (o : Host.Outcome State Fault Refusal) (t : State) : Bool := nextIs o fun u => decide (u = t)

/-- The decoder's answer. -/
def decodesTo (f : Format) (bs : List Byte) (i : Instr) : Bool :=
  match decode c0 f bs with
  | .ok j => decide (j = i)
  | .error _ => false

/-- The decoder refuses with this reason. -/
def refusedAs (f : Format) (bs : List Byte) (e : DecodeError) : Bool :=
  match decode c0 f bs with
  | .ok _ => false
  | .error d => decide (d = e)

/-! ## WellFormed refuses an ill-formed term of each check -/

theorem test_illFormed_lengths :
    WellFormed (.tsAfc1Payload true (zeros 183)) = false ∧ WellFormed (.tsAfc3Payload true 0 (zeros 184)) = false ∧
    WellFormed (.pesStart (zeros 185)) = false ∧ WellFormed (.pesContAppend (zeros 185)) = false ∧
    WellFormed (.pesContDiscard (zeros 185)) = false ∧ WellFormed (.duTailDrop 46) = false := by decide +kernel

theorem test_illFormed_packets :
    WellFormed (.pesRejShort 0) = false ∧ WellFormed (.pesRejShort 9) = false ∧ WellFormed (.pesRejPrefix 1) = false ∧
    WellFormed (.pesRejStreamId 0xBD) = false ∧ WellFormed (.pesRejTrunc 3) = false ∧
    WellFormed (.pesRejDataId 0x10) = false ∧ WellFormed (.pesRejDataId 0x1F) = false ∧
    WellFormed (.pesAccept []) = false ∧ WellFormed (.pesAccept [0x20]) = false := by decide +kernel

theorem test_illFormed_slots :
    WellFormed (.duSkipId 0x02) = false ∧ WellFormed (.duSkipId 0x03) = false ∧
    WellFormed (.duRejOffset 7) = false ∧ WellFormed (.duRejOffset 22) = false := by decide +kernel

theorem test_notSelected :
    selectedBy c0 (.tsSyncErr 0x47) = false ∧ selectedBy c0 (.tsPidSkip 0x0835) = false ∧
    selectedBy c0 (.duFieldFlip 0 0 line1) = false ∧ selectedBy c0 (.duLineDecreasing 0 line1) = false ∧
    selectedBy ⟨0x47, 0x0835, 0, 8⟩ (.duLine 0 line1) = false := by decide +kernel

theorem test_params_capPositive :
    paramsWellFormed defaultParams = true ∧ paramsWellFormed ⟨0x47, 0, some 0, true⟩ = false := by decide +kernel

/-! ## Decoding: units written out from the encodings, one for each constructor a unit selects -/

/-- 45_host_interface.md R200 to R206, 70_reset_and_hazards.md R250: the port requests. RESET pid=0x0835 is 0000 1000 0011 0101. -/
theorem test_decode_ports :
    decodesTo .portIn [0xA5] (.inByte 0xA5) = true ∧ decodesTo .portOut [] .outFrame = true ∧
    decodesTo .portDiag [0x01, 0x00, 0x00, 0x48] (.diagEvent (.syncMissing 0x48)) = true ∧
    decodesTo .portCancel [] .cancel = true ∧ decodesTo .portStatus [] .statusRead = true ∧
    decodesTo .portReset [0b00001000, 0b00110101] (.reset 0x0835) = true ∧
    decodesTo .portReset [0x1F, 0xFF] (.reset 0x1FFF) = true := by decide +kernel

theorem test_decode_ports_refused :
    refusedAs .portReset [0x20, 0x00] .pidTooWide = true ∧ refusedAs .portIn [] .wrongLength = true ∧
    refusedAs .portDiag [0x09] .reservedDiag = true ∧ refusedAs .portDiag [0x00] .reservedDiag = true ∧
    refusedAs .fragment [0x04] .badSelector = true ∧ refusedAs .tsPacket (zeros 187) .wrongLength = true := by
  decide +kernel

/-- 60_exceptions.md R221: all eight records, each argument on three bytes. -/
theorem test_decode_diagnostics :
    decodesTo .portDiag [0x02, 0x00, 0x00, 0x05] (.diagEvent (.pesTooShort 5)) = true ∧
    decodesTo .portDiag [0x03, 0x47, 0x48, 0x35] (.diagEvent (.pesNoPrefix 0x474835)) = true ∧
    decodesTo .portDiag [0x04, 0x00, 0x00, 0xBE] (.diagEvent (.pesBadStreamId 0xBE)) = true ∧
    decodesTo .portDiag [0x05, 0x00, 0x00, 0xFF] (.diagEvent (.pesTruncated 0xFF)) = true ∧
    decodesTo .portDiag [0x06, 0x00, 0x00, 0x06] (.diagEvent (.lineOffsetInvalid 6)) = true ∧
    decodesTo .portDiag [0x07, 0x00, 0x00, 0x09, 0x00, 0x00, 0x0A] (.diagEvent (.lineOffsetDecreasing 9 10)) = true ∧
    decodesTo .portDiag [0x08] (.diagEvent .pesOverflow) = true := by decide +kernel

/-- V-TS-1, V-TS-2, V-TS-14: byte 1 is TEI PUSI TP PID[12:8], byte 3 is TSC AFC CC (30_encoding.md R61). -/
theorem test_decode_afc1 :
    decodesTo .tsPacket ([0x47, 0b01001000, 0x35, 0b00010000] ++ seq 184 0) (.tsAfc1Payload true (seq 184 0)) = true ∧
    decodesTo .tsPacket ([0x47, 0b00001000, 0x35, 0b00010001] ++ seq 184 0) (.tsAfc1Payload false (seq 184 0)) = true ∧
    decodesTo .tsPacket ([0x47, 0b11001000, 0x35, 0b11011111] ++ seq 184 0) (.tsAfc1Payload true (seq 184 0)) = true := by
  decide +kernel

/-- V-TS-4: L = 182. -/
theorem test_decode_afc3 :
    decodesTo .tsPacket ([0x47, 0x48, 0x35, 0b00110000, 0xB6] ++ seq 183 0x10)
      (.tsAfc3Payload true 0xB6 (seq 183 0x10)) = true := by decide +kernel

/-- V-TS-7 to V-TS-12. -/
theorem test_decode_noFragment :
    decodesTo .tsPacket ([0x47, 0x48, 0x35, 0b00100000, 0xB7] ++ seq 183 0x10) .tsAfc2NoPayload = true ∧
    decodesTo .tsPacket ([0x47, 0x48, 0x35, 0b00000000] ++ seq 184 0) .tsAfc0NoPayload = true ∧
    decodesTo .tsPacket ([0x48, 0x48, 0x35, 0x10] ++ seq 184 0) (.tsSyncErr 0x48) = true ∧
    decodesTo .tsPacket ([0x00, 0x41, 0x00, 0x10] ++ seq 184 0) (.tsSyncErr 0x00) = true ∧
    decodesTo .tsPacket ([0x47, 0x41, 0x00, 0x10] ++ seq 184 0) (.tsPidSkip 0x0100) = true ∧
    decodesTo .tsPacket ([0x47, 0b01011000, 0x35, 0x10] ++ seq 184 0) (.tsPidSkip 0x1835) = true := by decide +kernel

/-- The table's FRAGMENT word: is_start in bit 1, PES_ACTIVE in bit 0. -/
theorem test_decode_fragments :
    decodesTo .fragment [0b10, 0xAA] (.pesStart [0xAA]) = true ∧ decodesTo .fragment [0b11] (.pesStart []) = true ∧
    decodesTo .fragment [0b01, 0xAA] (.pesContAppend [0xAA]) = true ∧
    decodesTo .fragment [0b00, 0xAA] (.pesContDiscard [0xAA]) = true := by decide +kernel

/-- V-PP-1, V-PP-6, V-PP-7, V-PP-8, V-PP-9. -/
theorem test_decode_packets_rejected :
    decodesTo .pesPacket [0x00, 0x00, 0x01, 0xBD, 0x00] (.pesRejShort 5) = true ∧
    decodesTo .pesPacket ([0x47, 0x48, 0x35, 0x10] ++ seq 184 0) (.pesRejPrefix 0x474835) = true ∧
    decodesTo .pesPacket ([0x00, 0x00, 0x01, 0xBE, 0x00, 0x00, 0x80, 0x00, 0x00, 0x10] ++ slot 2 0xC7)
      (.pesRejStreamId 0xBE) = true ∧
    decodesTo .pesPacket ([0x00, 0x00, 0x01, 0xBD, 0x00, 0xFF, 0x80, 0x00, 0x00, 0x10] ++ zeros 137)
      (.pesRejTrunc 0x00FF) = true ∧
    decodesTo .pesPacket ([0x00, 0x00, 0x01, 0xBD, 0x00, 0x03, 0x80, 0x00, 0x00, 0x10] ++ slot 2 0xC7) .pesRejEmpty = true ∧
    decodesTo .pesPacket ([0x00, 0x00, 0x01, 0xBD, 0x00, 0x32, 0x80, 0x00, 0x00, 0x0F] ++ slot 2 0xC7)
      (.pesRejDataId 0x0F) = true := by decide +kernel

/-- V-PP-10, V-PP-12, V-PP-14, V-PP-16, V-PP-18. -/
theorem test_decode_packets_boundaries :
    decodesTo .pesPacket ([0x00, 0x00, 0x01, 0xBD, 0x00, 0x00, 0x80, 0x00, 0xC8, 0x10] ++ zeros 137) .pesRejEmpty = true ∧
    decodesTo .pesPacket ([0x00, 0x00, 0x01, 0xBD, 0x00, 0x04, 0x80, 0x00, 0x00, 0x10] ++ slot 2 0xC7)
      (.pesAccept [0x10]) = true ∧
    decodesTo .pesPacket ([0x00, 0x00, 0x01, 0xBD, 0x00, 0x32, 0x80, 0x00, 0x00, 0x20] ++ slot 2 0xC7)
      (.pesRejDataId 0x20) = true ∧
    decodesTo .pesPacket ([0x00, 0x00, 0x01, 0xBD, 0x00, 0x32, 0x80, 0x00, 0x00, 0x1F] ++ slot 2 0xC7)
      (.pesAccept (0x1F :: slot 2 0xC7)) = true ∧
    decodesTo .pesPacket ([0x00, 0x00, 0x01, 0xBD, 0x00, 0x35, 0x00, 0x00, 0x03, 0xAA, 0xBB, 0xCC, 0x10] ++ slot 2 0xC7)
      (.pesAccept (0x10 :: slot 2 0xC7)) = true := by decide +kernel

/-- V-DU-1 to V-DU-12: D[0] is reserved[7:6] FP[5] OFF[4:0] (30_encoding.md R68). -/
theorem test_decode_slots :
    decodesTo .duSlot (slot 2 0b11000111) (.duLine 0 line1) = true ∧
    decodesTo .duSlot (slot 3 0b11010110) (.duLine 15 line1) = true ∧
    decodesTo .duSlot (slot 2 0b11100111) (.duFieldFlip 1 0 line1) = true ∧
    decodesTo .duSlot (slot 2 0b11000110) (.duRejOffset 6) = true ∧
    decodesTo .duSlot (slot 2 0b11010111) (.duRejOffset 23) = true ∧
    decodesTo .duSlot (slot 2 0b11100110) (.duRejOffset 6) = true ∧
    decodesTo .duSlot (slot 0xFF 0xC7) (.duSkipId 0xFF) = true ∧
    decodesTo .duSlot (zeros 45) (.duTailDrop 45) = true ∧
    decodesTo .lut [0x01] (.bitrev 0x01) = true := by decide +kernel

/-- V-DU-14: LAST_OFF 10, then offset 9. -/
theorem test_decode_decreasing :
    (decodeSlot ⟨0x47, 0x0835, 0, 10⟩ (slot 2 0xC9)).instr = .duLineDecreasing 2 line1 ∧
    (decodeSlot ⟨0x47, 0x0835, 0, 9⟩ (slot 2 0xC9)).instr = .duLine 2 line1 := by decide +kernel

/-- The words of `Obligations.DecodeSampleWords`, read with the table's numbering. -/
theorem test_decodeTableWord :
    decodeTableWord 32 0x48483510 = some (.tsSyncErr 0x48) ∧ decodeTableWord 32 0x000001BE = some (.pesRejStreamId 0xBE) ∧
    decodeTableWord 24 0x022CC6 = some (.duRejOffset 6) ∧ decodeTableWord 16 0x2000 = none := by decide +kernel

/-! ## One step, host transactions -/

/-- R100, example: the first byte after reset. -/
theorem test_inByte_first :
    nextEq (exec (.inByte 0x47) s0) { s0 with sb := s0.sb.set 0 0x47, sbCnt := 1 } = true := by decide +kernel

/-- R100 and R103, examples: the 188th byte processes stride `48 48 35 10 ...` and leaves SB_CNT = 0. -/
theorem test_inByte_completes :
    nextIs (exec (.inByte 0) { s0 with sb := stride [0x48, 0x48, 0x35, 0x10], sbCnt := 187 })
      (fun t => decide (t.sbCnt = 0 ∧ t.trace = [.diag (.syncMissing 0x48)] ∧ t.pb = [])) = true := by decide +kernel

/-- R201, example: `OUTQ = [F1, F2]` delivers F1 first; IN_READY becomes 1 once OUTQ is empty. -/
theorem test_outFrame_oldest :
    nextIs (exec .outFrame { s0 with outq := [frameOf 1, frameOf 2] })
      (fun t => decide (t.taken = [frameOf 1] ∧ t.outq = [frameOf 2] ∧ t.inReady = false)) = true := by decide +kernel

theorem test_outFrame_last_whenHalted :
    nextIs (exec .outFrame { s0 with outq := [frameOf 2], halted := true })
      (fun t => decide (t.taken = [frameOf 2] ∧ t.outq = [] ∧ t.inReady = false)) = true := by decide +kernel

/-- R203. -/
theorem test_diagEvent :
    nextEq (exec (.diagEvent (.pesTooShort 5)) s0) { s0 with trace := [.diag (.pesTooShort 5)] } = true := by decide +kernel

/-- R205, example: CANCEL with SB_CNT = 100. -/
theorem test_cancel :
    nextIs (exec .cancel { s0 with sbCnt := 100 })
      (fun t => decide (t.halted = true ∧ t.sbCnt = 100 ∧ t.inReady = false)) = true := by decide +kernel

/-- R206: 0x04 straight after reset; 0x02 after an overflow with OUTQ empty. -/
theorem test_statusRead :
    nextIs (exec .statusRead s0) (fun t => decide (t.result = .status 0x04)) = true ∧
    nextIs (exec .statusRead { s0 with ovf := true }) (fun t => decide (t.result = .status 0x02)) = true := by decide +kernel

/-- R250, example, from a halted and faulted state with everything written. -/
theorem test_reset :
    nextIs (exec (.reset 0x0835)
        { s0 with cfgPid := 1, sbCnt := 9, pb := [1], pesActive := true, parity := 1, lastOff := 9, outq := [frameOf 1],
                  halted := true, ovf := true, trace := [.frame (frameOf 1)] })
      (fun t => decide (t.cfgPid = 0x0835 ∧ t.status = 0x04 ∧ t.sbCnt = 0 ∧ t.pb = [] ∧ t.pesActive = false ∧
        t.parity = 0 ∧ t.lastOff = 0 ∧ t.fb = zeroFieldBuffer ∧ t.trace = [])) = true := by decide +kernel

/-! ## One step, TS Demultiplexer and PES Reassembler -/

theorem test_tsSyncErr :
    nextEq (exec (.tsSyncErr 0x48) s0) { s0 with trace := [.diag (.syncMissing 0x48)] } = true := by decide +kernel

/-- R104, R106, R108: no state is written, and a packet in progress stays open (V-PR-8, V-PR-9). -/
theorem test_tsNoFragment :
    nextEq (exec (.tsPidSkip 0x0100) { s0 with pb := [1], pesActive := true }) { s0 with pb := [1], pesActive := true } = true ∧
    nextEq (exec .tsAfc0NoPayload { s0 with pb := [1], pesActive := true }) { s0 with pb := [1], pesActive := true } = true ∧
    nextEq (exec .tsAfc2NoPayload { s0 with pb := [1], pesActive := true }) { s0 with pb := [1], pesActive := true } = true := by
  decide +kernel

/-- V-TS-1, V-TS-2: a start fragment of 184 bytes; the same payload without PUSI before any start. -/
theorem test_tsAfc1Payload :
    nextEq (exec (.tsAfc1Payload true (seq 184 0)) s0) { s0 with pb := seq 184 0, pesActive := true } = true ∧
    nextEq (exec (.tsAfc1Payload false (seq 184 0)) s0) s0 = true := by decide +kernel

/-- V-TS-4, V-TS-5, V-TS-6: L = 182, 183 and 200. -/
theorem test_tsAfc3Payload :
    nextEq (exec (.tsAfc3Payload true 182 (seq 183 0x10)) s0) { s0 with pb := [0xC6], pesActive := true } = true ∧
    nextEq (exec (.tsAfc3Payload true 183 (seq 183 0x10)) s0) { s0 with pesActive := true } = true ∧
    nextEq (exec (.tsAfc3Payload true 200 (seq 183 0x10)) s0) { s0 with pesActive := true } = true := by decide +kernel

/-- R121: the old packet (here five bytes, V-PP-1) is delivered before PB takes the new fragment. -/
theorem test_pesStart_delivers :
    nextIs (exec (.pesStart [0xAA]) { s0 with pb := [0x00, 0x00, 0x01, 0xBD, 0x00], pesActive := true })
      (fun t => decide (t.pb = [0xAA] ∧ t.pesActive = true ∧ t.trace = [.diag (.pesTooShort 5)])) = true := by decide +kernel

/-- V-PR-6: with P_EMPTY_START_OPENS = false an empty start leaves PES_ACTIVE 0. -/
theorem test_pesStart_empty :
    nextIs (exec (.pesStart []) { s0 with params := ⟨0x47, 0, none, false⟩ })
      (fun t => decide (t.pb = [] ∧ t.pesActive = false)) = true := by decide +kernel

/-- R122, example: 184 and 184 bytes make 368; V-PR-10: with a cap of 300 they overflow. -/
theorem test_pesContAppend :
    nextIs (exec (.pesContAppend (zeros 184)) { s0 with pb := zeros 184, pesActive := true })
      (fun t => decide (t.pb = zeros 368)) = true ∧
    nextIs (exec (.pesContAppend (zeros 184))
        { s0 with params := ⟨0x47, 0, some 300, true⟩, pb := zeros 184, pesActive := true })
      (fun t => decide (t.pb = [] ∧ t.pesActive = false ∧ t.ovf = true ∧ t.trace = [.diag .pesOverflow])) = true := by
  decide +kernel

theorem test_pesContDiscard : nextEq (exec (.pesContDiscard (zeros 184)) s0) s0 = true := by decide +kernel

/-- R126: frames already queued stay deliverable. -/
theorem test_pesOverflow :
    nextIs (exec .pesOverflow { s0 with pb := [1], pesActive := true, outq := [frameOf 1] })
      (fun t => decide (t.ovf = true ∧ t.pb = [] ∧ t.pesActive = false ∧ t.outq = [frameOf 1] ∧ t.inReady = false)) = true := by
  decide +kernel

/-! ## One step, PES Header Parser -/

/-- R142 to R147, examples. -/
theorem test_pesRejections :
    nextEq (exec (.pesRejShort 5) s0) { s0 with trace := [.diag (.pesTooShort 5)], result := .reject } = true ∧
    nextEq (exec (.pesRejPrefix 0x474835) s0)
      { s0 with trace := [.diag (.pesNoPrefix 0x474835)], result := .reject } = true ∧
    nextEq (exec (.pesRejStreamId 0xBE) s0) { s0 with trace := [.diag (.pesBadStreamId 0xBE)], result := .reject } = true ∧
    nextEq (exec (.pesRejTrunc 0x00FF) s0) { s0 with trace := [.diag (.pesTruncated 0x00FF)], result := .reject } = true ∧
    nextEq (exec .pesRejEmpty s0) { s0 with result := .reject } = true ∧
    nextEq (exec (.pesRejDataId 0x20) s0) { s0 with result := .reject } = true := by decide +kernel

/-- R148, example: a 148-byte packet with PKTLEN 0x8E returns its 139-byte region. -/
theorem test_pesAccept :
    decodesTo .pesPacket ([0x00, 0x00, 0x01, 0xBD, 0x00, 0x8E, 0x80, 0x00, 0x00, 0x10] ++ seq 138 0)
      (.pesAccept (0x10 :: seq 138 0)) = true ∧
    nextEq (exec (.pesAccept (0x10 :: seq 138 0)) s0) { s0 with result := .region (0x10 :: seq 138 0) } = true := by
  decide +kernel

/-! ## One step, Teletext Field Decoder and Bit-Order Table -/

theorem test_duSkipped :
    nextEq (exec (.duTailDrop 11) s0) s0 = true ∧ nextEq (exec (.duSkipId 0xFF) s0) s0 = true ∧
    nextEq (exec .duSkipShort s0) s0 = true := by decide +kernel

/-- V-DU-7, V-DU-8. -/
theorem test_duRejOffset :
    nextEq (exec (.duRejOffset 6) s0) { s0 with trace := [.diag (.lineOffsetInvalid 6)] } = true ∧
    nextEq (exec (.duRejOffset 23) s0) { s0 with trace := [.diag (.lineOffsetInvalid 23)] } = true := by decide +kernel

/-- R171, example: row 0 becomes 80 40 C0 ... 54 and LAST_OFF 7. -/
theorem test_duLine :
    nextIs (exec (.duLine 0 line1) s0)
      (fun t => decide ((t.fb.get 0).toList = line1Reversed ∧ (t.fb.get 0).get 0 = 0x80 ∧ (t.fb.get 0).get 41 = 0x54 ∧
        t.fb.get 1 = Block.fill 42 0 ∧ t.lastOff = 7)) = true := by decide +kernel

/-- R168, example: LAST_OFF = 10, then offset 9. -/
theorem test_duLineDecreasing :
    nextIs (exec (.duLineDecreasing 2 line1) { s0 with lastOff := 10 })
      (fun t => decide (t.trace = [.diag (.lineOffsetDecreasing 9 10)] ∧ (t.fb.get 2).toList = line1Reversed ∧
        t.lastOff = 9)) = true := by decide +kernel

/-- R167, example, with row 1 written: frame bytes 42 to 83 are row 1 (20_memory.md R44). -/
theorem test_duFieldFlip :
    nextIs (exec (.duFieldFlip 1 0 line1) { s0 with fb := zeroFieldBuffer.set 1 (Block.fill 42 0xAB), lastOff := 8 })
      (fun t => decide (t.parity = 1 ∧ t.lastOff = 7 ∧ (t.fb.get 0).toList = line1Reversed ∧
        t.fb.get 1 = Block.fill 42 0 ∧
        t.outq.map Block.toList = [zeros 42 ++ List.replicate 42 0xAB ++ zeros 588])) = true := by decide +kernel

/-- R191, examples. -/
theorem test_bitrev :
    nextEq (exec (.bitrev 0x01) s0) { s0 with result := .reversed 0x80 } = true ∧
    nextEq (exec (.bitrev 0xF0) s0) { s0 with result := .reversed 0x0F } = true := by decide +kernel

/-! ## The step -/

/-- W7 in one region: offsets 7 and 8 of parity 0, then offset 7 of parity 1, emit one frame. -/
theorem test_region_emits_once :
    (decodeRegion (0x10 :: (slot 2 0xC7 ++ slot 2 0xC8 ++ slot 2 0xE7)) s0).outq.map Block.toList =
      [line1Reversed ++ line1Reversed ++ zeros 588] := by decide +kernel

/-- 70_reset_and_hazards.md R252, 93_implementation_defined.md I6. -/
theorem test_step_refused :
    step { s0 with configured := false, agenda := [.readStatus] } = .refused .beforeReset ∧
    step { s0 with agenda := [.reset 0x2000] } = .refused (.undecodable .pidTooWide) := by
  constructor <;> rfl

/-- A word placed by withFetchWord runs as the very next step. -/
theorem test_withFetchWord :
    nextIs (step (State.reset.withFetchWord 32 0x48483510))
      (fun t => decide (t.trace = [.diag (.syncMissing 0x48)] ∧ t.sbCnt = 0)) = true ∧
    nextIs (step (State.reset.withFetchWord 24 0x022CC6))
      (fun t => decide (t.trace = [.diag (.lineOffsetInvalid 6)])) = true := by decide +kernel

/-! ## Witnesses: states and operands that meet the hypotheses of each statement together -/

/-- A state with a turn of the source and a byte to offer. -/
def sOffer : State := { s0 with agenda := [.offer], offered := [0x47] }

/-- An instance with a finite cap of 300. -/
def sCap : State := { s0 with params := ⟨0x47, 0, some 300, true⟩ }

/-- A stride of the configured PID with this AFC byte and this byte 4. -/
def strideOf (b3 b4 : Byte) : Stride := stride [0x47, 0x48, 0x35, b3, b4]

/-- A PES packet of 56 bytes with this prefix, stream id, PKTLEN low byte, HDRLEN and data identifier. -/
def packet (p2 sid lenLow hdr dataId : Byte) : List Byte :=
  [0x00, 0x00, p2, sid, 0x00, lenLow, 0x80, 0x00, hdr, dataId] ++ slot 2 0xC7

theorem witness_StepRunsDecodedOperation :
    fetch sOffer = (some (.portIn, [0x47]), s0) ∧ decode s0.ctx .portIn [0x47] = .ok (.inByte 0x47) := ⟨rfl, rfl⟩

theorem witness_HostTurnsRunTheirTransaction :
    s0.agenda = [] ∧ (sOffer.agenda = .offer :: [] ∧ sOffer.offered = 0x47 :: []) ∧
    (∃ s : State, s.agenda = .offer :: [] ∧ s.offered = []) ∧ (∃ s : State, s.agenda = .take :: []) ∧
    (∃ s : State, s.agenda = .cancel :: []) ∧ (∃ s : State, s.agenda = .readStatus :: []) ∧
    (∃ s : State, s.agenda = .reset ((0x1FFF : Pid).setWidth 16) :: []) ∧
    (∃ s : State, s.agenda = .reset 0x2000 :: [] ∧ 0x1FFF < (0x2000 : BitVec 16).toNat) :=
  ⟨rfl, ⟨rfl, rfl⟩, ⟨{ s0 with agenda := [.offer] }, rfl, rfl⟩, ⟨{ s0 with agenda := [.take] }, rfl⟩,
    ⟨{ s0 with agenda := [.cancel] }, rfl⟩, ⟨{ s0 with agenda := [.readStatus] }, rfl⟩,
    ⟨{ s0 with agenda := [.reset 0x1FFF] }, rfl⟩, ⟨{ s0 with agenda := [.reset 0x2000] }, rfl, by decide⟩⟩

/-- A configured state (also for CancelHalts and StatusReadReturnsStatus), and an operation that is refused. -/
theorem witness_EveryOperationCompletes :
    s0.configured = true ∧ exec .cancel { s0 with configured := false } = .refused .beforeReset := ⟨rfl, rfl⟩

/-- An unconfigured state, and an operation that completes in it. -/
theorem witness_RefusedBeforeFirstReset :
    ({ s0 with configured := false } : State).configured = false ∧
    exec (.bitrev 1) { s0 with configured := false } =
      .next { s0 with configured := false, result := .reversed (rev 1) } ∧
    ∀ pid, Instr.bitrev 1 ≠ .reset pid := ⟨rfl, rfl, nofun⟩

/-- SB_CNT = 186 and 187, and each way of IN_READY = 0. -/
theorem witness_InByteAssemblesStrides :
    (∃ s : State, s.configured = true ∧ s.halted = false ∧ s.ovf = false ∧ s.outq = [] ∧ s.sbCnt.val < 187) ∧
    (∃ s : State, s.configured = true ∧ s.halted = false ∧ s.ovf = false ∧ s.outq = [] ∧ s.sbCnt.val = 187) ∧
    (∃ s : State, s.configured = true ∧ s.halted = true) ∧ (∃ s : State, s.configured = true ∧ s.ovf = true) ∧
    ∃ s : State, s.configured = true ∧ s.outq ≠ [] :=
  ⟨⟨{ s0 with sbCnt := 186 }, rfl, rfl, rfl, rfl, by decide⟩, ⟨{ s0 with sbCnt := 187 }, rfl, rfl, rfl, rfl, rfl⟩,
    ⟨{ s0 with halted := true }, rfl, rfl⟩, ⟨{ s0 with ovf := true }, rfl, rfl⟩,
    ⟨{ s0 with outq := [frameOf 1] }, rfl, List.cons_ne_nil _ _⟩⟩

theorem witness_OutFrameDeliversOldest :
    (∃ s : State, s.configured = true ∧ s.outq = frameOf 1 :: [frameOf 2]) ∧ s0.configured = true ∧ s0.outq = [] :=
  ⟨⟨{ s0 with outq := [frameOf 1, frameOf 2] }, rfl, rfl⟩, rfl, rfl⟩

/-- Also for HaltedAndOvfSticky and PidOnlyByReset: an OUT_FRAME of a halted, faulted block. -/
theorem witness_ResetSetsEveryElement :
    ∃ s : State, exec .outFrame s = .next s ∧ (∀ pid, Instr.outFrame ≠ .reset pid) ∧ Instr.outFrame ≠ .cancel ∧
      s.configured = true ∧ s.halted = true ∧ s.ovf = true ∧ s.params.pesCap = none ∧ Instr.outFrame ≠ .pesOverflow :=
  ⟨{ s0 with halted := true, ovf := true }, rfl, nofun, nofun, rfl, rfl, rfl, rfl, nofun⟩

theorem witness_SyncErrorDropsStride :
    (stride [0x48, 0x48, 0x35, 0x10]).get 0 ≠ s0.params.syncByte := by decide +kernel

theorem witness_SkippedStridesChangeNothing :
    ((stride [0x47, 0x58, 0x35, 0x10]).get 0 = s0.params.syncByte ∧ pidField (stride [0x47, 0x58, 0x35, 0x10]) ≠ s0.cfgPid) ∧
    ((strideOf 0x00 0).get 0 = s0.params.syncByte ∧ pidField (strideOf 0x00 0) = s0.cfgPid ∧ afcField (strideOf 0x00 0) = 0) ∧
    (strideOf 0x20 0).get 0 = s0.params.syncByte ∧ pidField (strideOf 0x20 0) = s0.cfgPid ∧ afcField (strideOf 0x20 0) = 2 := by
  decide +kernel

theorem witness_Afc1HandsWholePayload :
    (strideOf 0x10 0).get 0 = s0.params.syncByte ∧ pidField (strideOf 0x10 0) = s0.cfgPid ∧ afcField (strideOf 0x10 0) = 1 := by
  decide +kernel

/-- L = 183 and L = 184 fall on the two sides of the length rule. -/
theorem witness_Afc3SkipsAdaptationField :
    ((strideOf 0x30 0xB7).get 0 = s0.params.syncByte ∧ pidField (strideOf 0x30 0xB7) = s0.cfgPid ∧
      afcField (strideOf 0x30 0xB7) = 3) ∧
    (zeros 183).length = 183 ∧ (afc3Payload 182 (zeros 183)).length = 1 ∧ (afc3Payload 183 (zeros 183)).length = 0 ∧
    (afc3Payload 184 (zeros 183)).length = 0 := by decide +kernel

/-- Two strides that differ in TEI, TP, TSC, CC and in the adaptation field. -/
theorem witness_IgnoredHeaderBitsIrrelevant :
    let a := stride [0x47, 0x48, 0x35, 0x10]
    let b := stride [0x47, 0xE8, 0x35, 0xDF]
    let x := stride [0x47, 0x48, 0x35, 0x30, 0x01, 0x00]
    let y := stride [0x47, 0x48, 0x35, 0x30, 0x01, 0xFF]
    (a ≠ b ∧ syncField a = syncField b ∧ pusiField a = pusiField b ∧ pidField a = pidField b ∧ afcField a = afcField b ∧
      a.toList.drop 4 = b.toList.drop 4) ∧
    decodeStride c0 x = .afc3 true 1 (0x00 :: zeros 182) ∧ decodeStride c0 y = .afc3 true 1 (0xFF :: zeros 182) ∧
    x.get 4 = y.get 4 ∧ x.toList.drop 6 = y.toList.drop 6 := by decide +kernel

/-- No cap, a cap just kept and a cap just exceeded; PB empty and not. -/
theorem witness_StartFragmentClosesAndOpens :
    s0.pb = [] ∧ s0.params.pesCap = none ∧ ([1] : List Byte) ≠ [] ∧
    (sCap.params.pesCap = some 300 ∧ (zeros 300).length ≤ 300 ∧ 300 < (zeros 301).length) := by decide +kernel

theorem witness_ContinuationAppends :
    ({ sCap with pesActive := true, pb := zeros 184 } : State).pesActive = true ∧
    sCap.params.pesCap = some 300 ∧ (zeros 184).length + (zeros 116).length ≤ 300 ∧
    300 < (zeros 184).length + (zeros 117).length := by decide +kernel

theorem witness_ReassemblyLaw :
    sCap.pb = [] ∧ sCap.params.pesCap = some 300 ∧
    ((zeros 100).length + (zeros 100).length + (zeros 100).length ≤ 300 ∧ (zeros 184).length ≤ 300) ∧
    zeros 100 ≠ [] := by decide +kernel

/-- One packet for each clause of ParserCheckOrder, at the boundary values: lengths 8 and 9, END one past the end, START = END, and
the identifiers 0x0F, 0x10, 0x1F and 0x20. -/
theorem witness_ParserCheckOrder :
    (decodePacket (zeros 8) = .rejShort 8) ∧ (decodePacket (zeros 9) = .rejPrefix 0) ∧
    (decodePacket (packet 2 0xBD 0x00 0 0x10) = .rejPrefix 2) ∧ (decodePacket (packet 1 0xBE 0x00 0 0x10) = .rejStreamId 0xBE) ∧
    (decodePacket (packet 1 0xBD 0x33 0 0x10) = .rejTrunc 0x33) ∧ (decodePacket (packet 1 0xBD 0x03 0 0x10) = .rejEmpty) ∧
    (decodePacket (packet 1 0xBD 0x32 0 0x0F) = .rejDataId 0x0F) ∧ (decodePacket (packet 1 0xBD 0x32 0 0x20) = .rejDataId 0x20) ∧
    (decodePacket (packet 1 0xBD 0x32 0 0x10) = .accept (0x10 :: slot 2 0xC7)) ∧
    (decodePacket (packet 1 0xBD 0x04 0 0x1F) = .accept [0x1F]) := by decide +kernel

/-- A packet with a region and one without; for DeliveryParsesThenDecodes and ParserCheckOrder. -/
theorem witness_DeliveryParsesThenDecodes :
    (decodePacket (packet 1 0xBD 0x32 0 0x10)).instr = .pesAccept (0x10 :: slot 2 0xC7) ∧
    ∀ region, (decodePacket (zeros 8)).instr ≠ .pesAccept region := by
  refine ⟨by decide +kernel, ?_⟩
  have h : (decodePacket (zeros 8)).instr = .pesRejShort 8 := by decide +kernel
  rw [h]
  nofun

/-- Two packets that differ in bytes 6 and 7 and in the one byte of header data. -/
theorem witness_SkippedPesBytesIrrelevant :
    let p : List Byte := [0x00, 0x00, 0x01, 0xBD, 0x00, 0x00, 0x80, 0x00, 0x01, 0xAA, 0x10]
    let q : List Byte := [0x00, 0x00, 0x01, 0xBD, 0x00, 0x00, 0x00, 0x11, 0x01, 0xBB, 0x10]
    p ≠ q ∧ p.length = q.length ∧
    ∀ i < 11, i ≠ 6 → i ≠ 7 → (i < 9 ∨ 9 + (byteAt p 8).toNat ≤ i) → byteAt p i = byteAt q i := by decide +kernel

/-- One slot for each clause of SlotCheckOrder, at the boundary values: 45 and 46 bytes left, offsets 6, 7, 22 and 23, and an offset
equal to LAST_OFF. -/
theorem witness_SlotCheckOrder :
    (decodeSlot c0 (zeros 45) = .tailDrop 45) ∧ (decodeSlot c0 (zeros 46) = .skipId 0) ∧
    (decodeSlot c0 (slot 2 0xC6) = .rejOffset 6) ∧ (decodeSlot c0 (slot 3 0xF7) = .rejOffset 23) ∧
    (decodeSlot c0 (slot 2 0xE7) = .fieldFlip 1 0 line1) ∧
    (decodeSlot ⟨0x47, 0x0835, 0, 22⟩ (slot 2 0xD5) = .lineDecreasing 14 line1) ∧
    (decodeSlot ⟨0x47, 0x0835, 0, 22⟩ (slot 3 0xD6) = .lineInOrder 15 line1) ∧
    (decodeSlot c0 (slot 2 0xC7) = .lineInOrder 0 line1) := by decide +kernel

/-- The hypotheses about a slot in SkippedSlotsChangeNothing, InvalidOffsetOnlyDiagnosed, LineWritesItsRow, DecreasingLineStillWritten
and FieldFlipEmitsAndRestarts. -/
theorem witness_slotOperations :
    ((zeros 45).length < 46 ∧ 46 ≤ (zeros 46).length ∧ byteAt (zeros 46) 0 ≠ 0x02 ∧ byteAt (zeros 46) 0 ≠ 0x03) ∧
    (46 ≤ (slot 2 0xC6).length ∧ duIdOk (byteAt (slot 2 0xC6) 0) = true ∧ (slotOffset (slot 2 0xC6)).toNat < 7 ∧
      22 < (slotOffset (slot 2 0xD7)).toNat) ∧
    ((slotOffset (slot 2 0xC7)).toNat = (0 : Fin 16).val + 7 ∧ slotParity (slot 2 0xC7) = s0.parity ∧
      s0.lastOff.toNat ≤ (0 : Fin 16).val + 7 ∧ slotParity (slot 2 0xE7) ≠ s0.parity) ∧
    ((slotOffset (slot 2 0xD6)).toNat = (15 : Fin 16).val + 7 ∧ slotParity (slot 2 0xD6) = s0.parity) ∧
    (slotOffset (slot 2 0xC9)).toNat = (2 : Fin 16).val + 7 ∧ slotParity (slot 2 0xC9) = s0.parity ∧
      (2 : Fin 16).val + 7 < ({ s0 with lastOff := 10 } : State).lastOff.toNat := by decide +kernel

theorem witness_RegionWalkedSlotBySlot : (zeros 45).length < 46 ∧ 46 ≤ (slot 2 0xC7).length := by decide +kernel

/-- Two slots that differ in the length byte, in D[0] bits 7:6 and in D[1]. -/
theorem witness_IgnoredSlotBytesIrrelevant :
    let a := [0x02, 0x2C, 0xC7, 0xE4] ++ seq 42 1
    let b := [0x02, 0x00, 0x07, 0x1B] ++ seq 42 1
    a ≠ b ∧ a.length = b.length ∧ byteAt a 0 = byteAt b 0 ∧ (byteAt a 2).toNat % 64 = (byteAt b 2).toNat % 64 ∧
    ∀ i < 46, 4 ≤ i → byteAt a i = byteAt b i := by decide +kernel

theorem witness_FieldEmissionLaw :
    (slot 2 0xC7).length = 46 ∧ (slot 3 0xC8).length = 46 ∧ (slot 2 0xE7).length = 46 ∧
    duIdOk (byteAt (slot 2 0xC7) 0) = true ∧ duIdOk (byteAt (slot 3 0xC8) 0) = true ∧ duIdOk (byteAt (slot 2 0xE7) 0) = true ∧
    slotParity (slot 2 0xC7) = s0.parity ∧ slotParity (slot 3 0xC8) = s0.parity ∧ slotParity (slot 2 0xE7) = 1 - s0.parity ∧
    (slotOffset (slot 2 0xC7)).toNat = 7 ∧ (slotOffset (slot 3 0xC8)).toNat = 8 ∧ (slotOffset (slot 2 0xE7)).toNat = 7 := by
  decide +kernel

theorem witness_DecodeEncodeAgree :
    WellFormed (.duFieldFlip 1 15 line1) = true ∧ selectedBy c0 (.duFieldFlip 1 15 line1) = true ∧
    encode c0 (.duFieldFlip 1 15 line1) = some (.duSlot, slot 2 0xF6) := by decide +kernel

theorem witness_DecodedIsWellFormed : decode c0 .duSlot (slot 2 0xC6) = .ok (.duRejOffset 6) := by
  have h : decodesTo .duSlot (slot 2 0xC6) (.duRejOffset 6) = true := by decide +kernel
  unfold decodesTo at h
  split at h
  · simp_all
  · cases h

/-- The codes 0x00, 0x09 and 0xFF. -/
theorem witness_DiagnosticCodes :
    (0x00 : Byte).toNat = 0 ∧ 8 < (0x09 : Byte).toNat ∧ 8 < (0xFF : Byte).toNat := by decide

/-- Also for InvariantsGiveSevenFacts. -/
theorem witness_StepKeepsInvariants :
    sOffer.Inv ∧ step sOffer = .next { s0 with sb := s0.sb.set 0 0x47, sbCnt := 1 } := by
  refine ⟨⟨.inl rfl, nofun, fun _ => rfl, nofun, rfl⟩, ?_⟩
  have h : nextEq (step sOffer) { s0 with sb := s0.sb.set 0 0x47, sbCnt := 1 } = true := by decide +kernel
  revert h
  unfold nextEq nextIs
  split
  · intro h; simp_all
  · nofun
  · nofun

/-- The hypotheses of InvariantsGiveSevenFacts, with a finite cap and a field in progress. -/
theorem witness_InvariantsGiveSevenFacts :
    ({ sCap with pb := zeros 300, pesActive := true, lastOff := 22 } : State).Inv :=
  ⟨.inr ⟨by decide, by decide⟩, fun cap h => (by cases h; decide +kernel), nofun, nofun, rfl⟩

/-- With a cap of 300 and 184 bytes in PB, 116 more bytes fit and 117 do not; a start fragment of 301 bytes does not, and the byte that
completes a stride hands its payload on. -/
theorem witness_HaltedAndOvfSticky :
    let s := { sCap with pb := zeros 184, pesActive := true }
    (exec (.pesContAppend (zeros 117)) s = .next (pesContAppend (zeros 117) s) ∧
      (∀ pid, Instr.pesContAppend (zeros 117) ≠ .reset pid)) ∧
    (handed (.pesContAppend (zeros 117)) s = some (s, .contAppend (zeros 117)) ∧ s.exceedsCap (.contAppend (zeros 117))) ∧
    ¬ s.exceedsCap (.contAppend (zeros 116)) ∧ s.exceedsCap (.start (zeros 301)) ∧ ¬ s.exceedsCap (.start (zeros 300)) ∧
    ((handed (.inByte 0) { s with sb := strideOf 0x10 0, sbCnt := 187 }).map fun x => x.2) =
      some (.start (zeros 184)) := by
  refine ⟨⟨rfl, nofun⟩, ⟨rfl, 300, rfl, by decide +kernel⟩, ?_, ⟨300, rfl, by decide +kernel⟩, ?_, by decide +kernel⟩
  · rintro ⟨cap, h, hl⟩
    cases h
    revert hl
    decide +kernel
  · rintro ⟨cap, h, hl⟩
    cases h
    revert hl
    decide +kernel

theorem witness_PidOnlyByReset :
    exec (.reset 1) s0 = .next (resetBlock 1 s0) ∧ exec (.bitrev 1) s0 = .next { s0 with result := .reversed (rev 1) } ∧
    ∀ pid, Instr.bitrev 1 ≠ .reset pid := ⟨rfl, rfl, nofun⟩

theorem witness_TraceAndQueueOnlyGrow :
    exec (.duFieldFlip 1 0 line1) s0 = .next (duFieldFlip 1 0 line1 s0) ∧ (∀ pid, Instr.duFieldFlip 1 0 line1 ≠ .reset pid) ∧
    Instr.duFieldFlip 1 0 line1 ≠ .outFrame := ⟨rfl, nofun, nofun⟩

theorem witness_OnlyFieldFlipEmits :
    exec .cancel s0 = .next { s0 with halted := true } ∧ (∀ b, Instr.cancel ≠ .inByte b) ∧
    (∀ p l, Instr.cancel ≠ .tsAfc1Payload p l) ∧ (∀ p n l, Instr.cancel ≠ .tsAfc3Payload p n l) ∧
    (∀ l, Instr.cancel ≠ .pesStart l) ∧ (∀ p r l, Instr.cancel ≠ .duFieldFlip p r l) ∧
    (∀ pid, Instr.cancel ≠ .reset pid) ∧
    exec (.duFieldFlip 1 0 line1) s0 = .next (duFieldFlip 1 0 line1 s0) :=
  ⟨rfl, nofun, nofun, nofun, nofun, nofun, nofun, rfl⟩

/-- A PES_START whose delivery flips the field once, so that it emits the zero Field Buffer. -/
theorem witness_OnlyFieldFlipEmits_delivery :
    let s := { s0 with pb := pesBytes 0xBD 0 (0x10 :: (slot 2 0xC6 ++ slot 2 0xE7)), pesActive := true }
    exec (.pesStart []) s = .next (pesStart [] s) ∧ (∀ p r l, Instr.pesStart [] ≠ .duFieldFlip p r l) ∧
    (∀ pid, Instr.pesStart [] ≠ .reset pid) ∧ deliveredFrames (.pesStart []) s = [serialise zeroFieldBuffer] :=
  ⟨rfl, nofun, nofun, by decide +kernel⟩

theorem witness_HostTimingKeepsEventualTrace :
    sOffer.configured = true ∧ sOffer.agenda = .offer :: [] ∧ HostAct.isFlow .offer = true ∧
    step sOffer = .next { s0 with sb := s0.sb.set 0 0x47, sbCnt := 1 } :=
  ⟨rfl, rfl, rfl, witness_StepKeepsInvariants.2⟩

theorem witness_TraceIndependentOfHostTiming :
    sOffer.configured = true ∧ (∀ act ∈ sOffer.agenda, act.isFlow = true) ∧
    Host.Core.run Sys2Proof.core 1 sOffer = .next { s0 with sb := s0.sb.set 0 0x47, sbCnt := 1 } ∧
    ({ s0 with sb := s0.sb.set 0 0x47, sbCnt := 1 } : State).offered = [] := by
  refine ⟨rfl, by decide, ?_, rfl⟩
  have h := witness_StepKeepsInvariants.2
  show (match step sOffer with | .next s => Host.Outcome.next s | .fault r => .fault r | .refused r => .refused r) = _
  rw [h]
  rfl

end Sys2Proof.Tests
end

section
/-! Field buffer and slots (20_memory.md): which operation an accepted slot selects, and what DU_FIELD_FLIP does. -/

set_option autoImplicit false

namespace Sys2Proof.Machine

open Sys2Proof.Laws.RoundTrip (byteAt_take)

/-! A slot's fields lie in its first 46 bytes, so they are the same read from the rest of the region. -/

@[simp] theorem slotParity_take_46 (rest : List Byte) : slotParity (rest.take 46) = slotParity rest := by
  rw [slotParity, slotParity, byteAt_take (by omega)]

@[simp] theorem slotOffset_take_46 (rest : List Byte) : slotOffset (rest.take 46) = slotOffset rest := by
  rw [slotOffset, slotOffset, byteAt_take (by omega)]

@[simp] theorem slotLine_take_46 (rest : List Byte) : slotLine (rest.take 46) = slotLine rest := by
  refine Block.ext_get fun c => ?_
  rw [slotLine, slotLine, Block.get_tabulate, Block.get_tabulate, byteAt_take (by omega)]

/-- What a whole slot with an accepted id and the line offset of `row` selects: the parity is compared first, then the
offset with LAST_OFF (R166). -/
theorem decodeSlot_of_row {c : Ctx} {rest : List Byte} {row : Fin 16} (hlen : 46 ≤ rest.length)
    (hid : duIdOk (byteAt rest 0) = true) (hoff : (slotOffset rest).toNat = row.val + 7) :
    decodeSlot c rest =
      if slotParity rest ≠ c.parity then .fieldFlip (slotParity rest) row (slotLine rest)
      else if row.val + 7 < c.lastOff.toNat then .lineDecreasing row (slotLine rest)
      else .lineInOrder row (slotLine rest) := by
  have hid' : byteAt (rest.take 46) 0 = byteAt rest 0 := byteAt_take (by omega)
  have htake : (rest.take 46).length = 46 := List.length_take_of_le hlen
  have hrange : 7 ≤ row.val + 7 ∧ row.val + 7 ≤ 22 := by omega
  simp only [decodeSlot, if_neg (Nat.not_lt.mpr hlen), List.length_drop, htake, hid', hid, slotOffset_take_46,
    slotParity_take_46, slotLine_take_46, hoff, dif_pos hrange]
  simp

/-- DU_FIELD_FLIP emits the old Field Buffer and leaves a zero-filled one with only the new line in it (R167). -/
theorem exec_duFieldFlip (fp : BitVec 1) (row : Fin 16) (line : Line) (s : State) :
    exec (.duFieldFlip fp row line) s = .next { s with
      parity := fp, lastOff := rowOffset row, fb := zeroFieldBuffer.set row (reverseLine line),
      outq := s.outq ++ [serialise s.fb], trace := s.trace ++ [.frame (serialise s.fb)] } := rfl

/-- A row of a zero-filled Field Buffer is zero until a line is written to it. -/
theorem zeroFieldBuffer_set_reverseLine_get (row r : Fin 16) (line : Line) (c : Fin 42) :
    ((zeroFieldBuffer.set row (reverseLine line)).get r).get c = if r = row then rev (line.get c) else 0 := by
  rw [Block.get_set]
  split <;> simp

/-- Settles O33: the selection is `decodeSlot_of_row` in the branch of the other parity, the effect `exec_duFieldFlip`. -/
theorem fieldFlipEmitsAndRestarts : Obligations.FieldFlipEmitsAndRestarts := by
  unfold Obligations.FieldFlipEmitsAndRestarts
  refine fun row s => ⟨fun rest hlen hid hoff hparity => ?_, fun fp line =>
    ⟨_, serialise s.fb, exec_duFieldFlip fp row line s, rfl, fun i r c hr hc => ?_, rowOffset_toNat row,
      fun r c => zeroFieldBuffer_set_reverseLine_get row r line c⟩⟩
  · have hother : slotParity rest ≠ s.ctx.parity := hparity
    rw [decodeSlot_of_row hlen hid hoff, if_pos hother, SlotOp.instr]
  · have hrow : r = ⟨i.val / 42, by omega⟩ := Fin.ext hr
    have hcol : c = ⟨i.val % 42, by omega⟩ := Fin.ext hc
    rw [serialise_get, hrow, hcol]

end Sys2Proof.Machine
end

section
/-! TS Demultiplexer (40_ts_demux.md): the operation each class of stride selects, and the fragment the two payload-carrying
classes hand to the reassembler. -/

set_option autoImplicit false

namespace Sys2Proof.Machine

open Sys2Proof.Laws.RoundTrip (byteAt_take decodeStride_matched)

/-! Bytes of a sub-sequence (R12). -/

theorem byteAt_drop (p : List Byte) (n i : Nat) : byteAt (p.drop n) i = byteAt p (n + i) := by
  simp [byteAt, List.getD_eq_getElem?_getD]

theorem slice_length {p : List Byte} {b : Nat} (a : Nat) (h : b < p.length) : (slice p a b).length = b + 1 - a := by
  simp only [slice, List.length_take, List.length_drop]
  omega

theorem byteAt_slice {a b i : Nat} (p : List Byte) (h : i < b + 1 - a) : byteAt (slice p a b) i = byteAt p (a + i) := by
  rw [slice, byteAt_take h, byteAt_drop]

/-! The payload of TS_AFC3_PAYLOAD (R62, R109). -/

theorem afc3Payload_length {rest : List Byte} (len : Byte) (h : rest.length = 183) :
    (afc3Payload len rest).length = if len.toNat ≤ 183 then 183 - len.toNat else 0 := by
  unfold afc3Payload
  split
  · rw [List.length_drop, h]
  · rfl

theorem byteAt_afc3Payload {len : Byte} {rest : List Byte} {i : Nat} (h : i < (afc3Payload len rest).length) :
    byteAt (afc3Payload len rest) i = byteAt rest (len.toNat + i) := by
  unfold afc3Payload at h ⊢
  split at h
  case isTrue hlen => rw [if_pos hlen, byteAt_drop]
  case isFalse => exact absurd h (Nat.not_lt_zero i)

/-! The selection of a stride, one equation per check of the tree and per value of AFC (R102). -/

section Selection

variable {c : Ctx} {sb : Stride}

theorem decodeStride_of_badSync (h : syncField sb ≠ c.sync) : decodeStride c sb = .syncErr (syncField sb) := by
  rw [decodeStride, if_pos h]

theorem decodeStride_of_otherPid (hsync : syncField sb = c.sync) (h : pidField sb ≠ c.pid) :
    decodeStride c sb = .pidSkip (pidField sb) := by
  rw [decodeStride, if_neg (not_not_intro hsync), if_pos h]

variable (hsync : syncField sb = c.sync) (hpid : pidField sb = c.pid)
include hsync hpid

theorem decodeStride_of_afc0 (h : afcField sb = 0) : decodeStride c sb = .afc0 := by
  rw [decodeStride_matched hsync hpid, if_pos h]

theorem decodeStride_of_afc1 (h : afcField sb = 1) :
    decodeStride c sb = .afc1 (pusiField sb) (slice sb.toList 4 187) := by
  rw [decodeStride_matched hsync hpid, h, if_neg (by decide), if_pos rfl]

theorem decodeStride_of_afc2 (h : afcField sb = 2) : decodeStride c sb = .afc2 := by
  rw [decodeStride_matched hsync hpid, h, if_neg (by decide), if_neg (by decide), if_pos rfl]

theorem decodeStride_of_afc3 (h : afcField sb = 3) :
    decodeStride c sb = .afc3 (pusiField sb) (sb.get 4) (slice sb.toList 5 187) := by
  rw [decodeStride_matched hsync hpid, h, if_neg (by decide), if_neg (by decide), if_neg (by decide)]

end Selection

/-! The effect of each operation. -/

theorem exec_tsSyncErr (sync : Byte) (s : State) :
    exec (.tsSyncErr sync) s = .next { s with trace := s.trace ++ [.diag (.syncMissing sync)] } := rfl

theorem exec_tsPidSkip (pid : Pid) (s : State) : exec (.tsPidSkip pid) s = .next s := rfl

theorem exec_tsAfc0NoPayload (s : State) : exec .tsAfc0NoPayload s = .next s := rfl

theorem exec_tsAfc2NoPayload (s : State) : exec .tsAfc2NoPayload s = .next s := rfl

theorem exec_tsAfc1Payload (pusi : Bool) (payload : List Byte) (s : State) :
    exec (.tsAfc1Payload pusi payload) s = .next (pesFragment payload pusi s) := rfl

theorem exec_tsAfc3Payload (pusi : Bool) (len : Byte) (rest : List Byte) (s : State) :
    exec (.tsAfc3Payload pusi len rest) s = .next (pesFragment (afc3Payload len rest) pusi s) := rfl

/-- The fragment dispatch of R120 as a choice among the operations of the opcode table. -/
theorem decodeFragment_instr (isStart active : Bool) (payload : List Byte) :
    (decodeFragment isStart active payload).instr =
      if isStart then .pesStart payload else if active then .pesContAppend payload else .pesContDiscard payload := by
  cases isStart <;> cases active <;> rfl

/-- The reassembler operation that `is_start` and PES_ACTIVE select has the effect of `PES_Fragment` (R120). -/
theorem exec_selectedFragment (isStart : Bool) (payload : List Byte) (s : State) :
    exec (if isStart then .pesStart payload
      else if s.pesActive then .pesContAppend payload else .pesContDiscard payload) s =
      .next (pesFragment payload isStart s) := by
  rw [← decodeFragment_instr, exec_fragment]

/-- Settles O13: the first check of the tree, and the effect of `diag`. -/
theorem syncErrorDropsStride : Obligations.SyncErrorDropsStride := by
  unfold Obligations.SyncErrorDropsStride
  refine fun s => ⟨fun hsync => ?_, fun sync => exec_tsSyncErr sync s⟩
  rw [decodeStride_of_badSync (c := s.ctx) hsync, StrideOp.instr, syncField]

/-- Settles O14: one equation of the tree and one effect per operation; PUSI occurs in none of them. -/
theorem skippedStridesChangeNothing : Obligations.SkippedStridesChangeNothing := by
  unfold Obligations.SkippedStridesChangeNothing
  refine fun s => ⟨fun hsync hpid => ?_, fun hsync hpid => ⟨fun hafc => ?_, fun hafc => ?_⟩,
    fun pid => exec_tsPidSkip pid s, exec_tsAfc0NoPayload s, exec_tsAfc2NoPayload s⟩
  · rw [decodeStride_of_otherPid (c := s.ctx) hsync hpid, StrideOp.instr]
  · rw [decodeStride_of_afc0 (c := s.ctx) hsync hpid hafc, StrideOp.instr]
  · rw [decodeStride_of_afc2 (c := s.ctx) hsync hpid hafc, StrideOp.instr]

/-- Settles O15: the payload is the slice of bytes 4 to 187, and both sides run `PES_Fragment` on it. -/
theorem afc1HandsWholePayload : Obligations.Afc1HandsWholePayload := by
  unfold Obligations.Afc1HandsWholePayload
  refine fun s => ⟨fun hsync hpid hafc => ⟨slice s.sb.toList 4 187, ?_, ?_, fun i hi => byteAt_slice _ hi⟩,
    fun pusi payload => ⟨_, exec_tsAfc1Payload pusi payload s, exec_selectedFragment pusi payload s⟩⟩
  · rw [decodeStride_of_afc1 (c := s.ctx) hsync hpid hafc, StrideOp.instr]
  · exact slice_length 4 (by rw [s.sb.length_eq]; decide)

/-- Settles O16: the fragment is `afc3Payload`, empty when L > 183, and both sides run `PES_Fragment` on it. -/
theorem afc3SkipsAdaptationField : Obligations.Afc3SkipsAdaptationField := by
  unfold Obligations.Afc3SkipsAdaptationField
  refine fun s => ⟨fun hsync hpid hafc => ⟨slice s.sb.toList 5 187, ?_, ?_, fun i hi => byteAt_slice _ hi⟩,
    fun pusi len rest hrest => ⟨afc3Payload len rest, _, afc3Payload_length len hrest, fun i => byteAt_afc3Payload,
      exec_tsAfc3Payload pusi len rest s, exec_selectedFragment pusi (afc3Payload len rest) s⟩⟩
  · rw [decodeStride_of_afc3 (c := s.ctx) hsync hpid hafc, StrideOp.instr]
  · exact slice_length 5 (by rw [s.sb.length_eq]; decide)

end Sys2Proof.Machine
end

section
/-! PES Reassembler (41_pes_reassembler.md): what the two operations that fill PB do within and beyond the cap, and the delivery that
comes before a new packet. -/

set_option autoImplicit false

namespace Sys2Proof.Machine

/-! The cap check (R121, R122). -/

section Cap

variable {s : State} {n : Nat}

theorem overCap_of_exceeds {cap : Nat} (hcap : s.params.pesCap = some cap) (h : cap < n) : s.overCap n = true :=
  (overCap_iff s n).mpr ⟨cap, hcap, h⟩

theorem not_overCap_of_within (h : ∀ cap, s.params.pesCap = some cap → n ≤ cap) : ¬ s.overCap n = true := by
  rw [overCap_iff]
  rintro ⟨cap, hcap, hlt⟩
  exact absurd (h cap hcap) (Nat.not_le.mpr hlt)

end Cap

/-! The delivery at a start (R121). -/

/-- Whether or not there is a packet to deliver, the state differs from the one with PB emptied only in what the decoder owns. -/
theorem closePacket_decoderStep (s : State) : State.DecoderStep { s with pb := [] } (closePacket s) := by
  unfold closePacket
  split
  case isTrue h =>
    have hpb : s = { s with pb := [] } := by rw [← List.isEmpty_iff.mp h]
    rw [← hpb]
    exact State.DecoderStep.refl s
  case isFalse => exact pesDeliver_decoderStep s.pb _

theorem closePacket_params (s : State) : (closePacket s).params = s.params := by
  rw [closePacket_decoderStep s]

/-! The effect of each operation. -/

theorem exec_pesOverflow (s : State) : exec .pesOverflow s = .next (pesOverflow s) := rfl

theorem exec_pesStart (payload : List Byte) (s : State) :
    exec (.pesStart payload) s = .next (openPacket payload (closePacket s)) := rfl

theorem exec_pesContAppend (payload : List Byte) (s : State) :
    exec (.pesContAppend payload) s = .next (pesContAppend payload s) := rfl

theorem exec_pesContDiscard (payload : List Byte) (s : State) : exec (.pesContDiscard payload) s = .next s := rfl

/-- Settles O18: the state `t` of the statement is `closePacket s`, whose parameters are those of `s`, so the cap check after the
delivery is the one on the cap of `s`. -/
theorem startFragmentClosesAndOpens : Obligations.StartFragmentClosesAndOpens := by
  unfold Obligations.StartFragmentClosesAndOpens
  intro payload s t
  have ht : closePacket s = t := by simp only [closePacket, List.isEmpty_iff, t]
  have hparams : t.params = s.params := ht ▸ closePacket_params s
  rw [exec_pesStart, ht]
  refine ⟨decodeFragment_instr true s.pesActive payload, ht ▸ closePacket_decoderStep s, fun hcap => ?_,
    fun cap hcap hlt => ?_⟩
  · rw [← hparams] at hcap ⊢
    rw [openPacket, if_neg (not_overCap_of_within hcap)]
  · rw [← hparams] at hcap
    rw [openPacket, if_pos (overCap_of_exceeds hcap hlt), exec_pesOverflow]

/-- Settles O19: the dispatch of R120 in an active state, then the two sides of the cap check. -/
theorem continuationAppends : Obligations.ContinuationAppends := by
  unfold Obligations.ContinuationAppends
  refine fun payload s => ⟨fun hactive => ?_, fun hcap => ?_, fun cap hcap hlt => ?_⟩
  · rw [hactive, decodeFragment_instr]
    rfl
  · rw [exec_pesContAppend, pesContAppend, if_neg (not_overCap_of_within hcap)]
  · rw [exec_pesContAppend, pesContAppend, if_pos (overCap_of_exceeds hcap hlt), exec_pesOverflow]

/-- Settles O20: for `is_start = 0` the dispatch of R120 is decided by PES_ACTIVE alone. -/
theorem continuationDiscardedWhenInactive : Obligations.ContinuationDiscardedWhenInactive := by
  unfold Obligations.ContinuationDiscardedWhenInactive
  refine fun payload s => ⟨?_, exec_pesContDiscard payload s⟩
  rw [decodeFragment_instr]
  cases s.pesActive <;> simp

end Sys2Proof.Machine
end

section
/-! Teletext Field Decoder (43_teletext_decoder.md): the checks on a slot in their order, the effect of each operation that writes a
line or none, and the walk over a region. -/

set_option autoImplicit false

namespace Sys2Proof.Machine

open Sys2Proof.Laws.RoundTrip (byteAt_take)

/-! The fields of a slot as numbers (R67, R164). -/

theorem duIdOk_iff (d : Byte) : duIdOk d = true ↔ d = 0x02 ∨ d = 0x03 := by
  simp [duIdOk]

theorem duIdOk_iff_toNat (d : Byte) : duIdOk d = true ↔ d.toNat = 2 ∨ d.toNat = 3 := by
  rw [duIdOk_iff, ← BitVec.toNat_inj, ← BitVec.toNat_inj]
  rfl

theorem slotParity_toNat (u : List Byte) : (slotParity u).toNat = (byteAt u 2).toNat / 32 % 2 := by
  rw [slotParity, BitVec.extractLsb'_toNat, Nat.shiftRight_eq_div_pow]

theorem slotOffset_toNat (u : List Byte) : (slotOffset u).toNat = (byteAt u 2).toNat % 32 := by
  rw [slotOffset, BitVec.toNat_setWidth]

theorem slotLine_get (u : List Byte) (c : Fin 42) : (slotLine u).get c = byteAt u (4 + c.val) := by
  rw [slotLine, Block.get_tabulate]

/-! The selection of a slot position, one equation per check in the order of R160 and R166. -/

section Selection

variable {c : Ctx} {rest : List Byte}

theorem decodeSlot_of_short (h : rest.length < 46) : decodeSlot c rest = .tailDrop rest.length := by
  rw [decodeSlot, if_pos h]

variable (hlen : 46 ≤ rest.length)
include hlen

theorem decodeSlot_of_otherId (h : ¬ duIdOk (byteAt rest 0) = true) :
    decodeSlot c rest = .skipId (byteAt rest 0) := by
  have hid : byteAt (rest.take 46) 0 = byteAt rest 0 := byteAt_take (by omega)
  simp only [decodeSlot, if_neg (Nat.not_lt.mpr hlen), hid, h]
  rfl

variable (hid : duIdOk (byteAt rest 0) = true)
include hid

theorem decodeSlot_of_badOffset (h : (slotOffset rest).toNat < 7 ∨ 22 < (slotOffset rest).toNat) :
    decodeSlot c rest = .rejOffset (slotOffset rest) := by
  have hid' : byteAt (rest.take 46) 0 = byteAt rest 0 := byteAt_take (by omega)
  have htake : (rest.take 46).length = 46 := List.length_take_of_le hlen
  have hrange : ¬ (7 ≤ (slotOffset rest).toNat ∧ (slotOffset rest).toNat ≤ 22) := by omega
  simp only [decodeSlot, if_neg (Nat.not_lt.mpr hlen), List.length_drop, htake, hid', hid, slotOffset_take_46,
    dif_neg hrange]
  simp

variable {row : Fin 16} (hoff : (slotOffset rest).toNat = row.val + 7)
include hoff

theorem decodeSlot_of_otherParity (hparity : slotParity rest ≠ c.parity) :
    decodeSlot c rest = .fieldFlip (slotParity rest) row (slotLine rest) := by
  rw [decodeSlot_of_row hlen hid hoff, if_pos hparity]

theorem decodeSlot_of_decreasing (hparity : slotParity rest = c.parity) (h : row.val + 7 < c.lastOff.toNat) :
    decodeSlot c rest = .lineDecreasing row (slotLine rest) := by
  rw [decodeSlot_of_row hlen hid hoff, if_neg (not_not_intro hparity), if_pos h]

theorem decodeSlot_of_inOrder (hparity : slotParity rest = c.parity) (h : c.lastOff.toNat ≤ row.val + 7) :
    decodeSlot c rest = .lineInOrder row (slotLine rest) := by
  rw [decodeSlot_of_row hlen hid hoff, if_neg (not_not_intro hparity), if_neg (Nat.not_lt.mpr h)]

end Selection

/-! The effect of each operation. -/

theorem exec_duTailDrop (left : Nat) (s : State) : exec (.duTailDrop left) s = .next s := rfl

theorem exec_duSkipId (duId : Byte) (s : State) : exec (.duSkipId duId) s = .next s := rfl

theorem exec_duSkipShort (s : State) : exec .duSkipShort s = .next s := rfl

theorem exec_duRejOffset (off : BitVec 5) (s : State) :
    exec (.duRejOffset off) s = .next { s with trace := s.trace ++ [.diag (.lineOffsetInvalid off)] } := rfl

theorem exec_duLine (row : Fin 16) (line : Line) (s : State) :
    exec (.duLine row line) s = .next (s.writeLine row line) := rfl

theorem exec_duLineDecreasing (row : Fin 16) (line : Line) (s : State) :
    exec (.duLineDecreasing row line) s =
      .next ((s.diag (.lineOffsetDecreasing (rowOffset row) s.lastOff)).writeLine row line) := rfl

/-! The walk of R160; the fuel of `walkSlots` is no longer seen. -/

/-- The bytes left are fuel enough for the walk over them. -/
theorem decodeRegion_cons (dataId : Byte) (rest : List Byte) (s : State) :
    decodeRegion (dataId :: rest) s = walkSlots rest.length rest s :=
  walkSlots_fuel rest.length s (Nat.le_refl _) 1

theorem decodeRegion_tail {rest : List Byte} (h : rest.length < 46) (dataId : Byte) (s : State) :
    decodeRegion (dataId :: rest) s = s := by
  rw [decodeRegion_cons, walkSlots_tail h]

theorem decodeRegion_slot {rest : List Byte} (h : 46 ≤ rest.length) (dataId : Byte) (s : State) :
    decodeRegion (dataId :: rest) s =
      decodeRegion (dataId :: rest.drop 46) (runSlot (decodeSlot s.ctx rest) s) := by
  have hfuel : rest.length = (rest.drop 46).length + 45 + 1 := by
    rw [List.length_drop]
    omega
  rw [decodeRegion_cons, decodeRegion_cons, hfuel, walkSlots_slot h, walkSlots_fuel _ _ (Nat.le_refl _)]

/-- Settles O27: one equation of the check order per clause, the slot's fields read as numbers; the row is OFF - 7. -/
theorem slotCheckOrder : Obligations.SlotCheckOrder := by
  unfold Obligations.SlotCheckOrder
  intro c rest duId off fp
  have hid : duIdOk (byteAt rest 0) = true ↔ duId = 2 ∨ duId = 3 := duIdOk_iff_toNat _
  have hoff : (slotOffset rest).toNat = off := slotOffset_toNat rest
  have hfp : (slotParity rest).toNat = fp := slotParity_toNat rest
  refine ⟨fun hlen => ?_, fun hlen h2 h3 => ?_, fun hlen h hrange => ?_, fun hlen h hlo hhi => ?_⟩
  · rw [decodeSlot_of_short hlen, SlotOp.instr]
  · rw [decodeSlot_of_otherId hlen (mt hid.mp (not_or.mpr ⟨h2, h3⟩)), SlotOp.instr]
  · refine ⟨slotOffset rest, hoff, ?_⟩
    rw [decodeSlot_of_badOffset hlen (hid.mpr h) (hoff ▸ hrange), SlotOp.instr]
  · obtain ⟨row, hrow⟩ : ∃ row : Fin 16, row.val + 7 = off := ⟨⟨off - 7, by omega⟩, Nat.sub_add_cancel hlo⟩
    have hsel : (slotOffset rest).toNat = row.val + 7 := hoff.trans hrow.symm
    have hparity : fp = c.parity.toNat ↔ slotParity rest = c.parity := by rw [← hfp, BitVec.toNat_inj]
    refine ⟨row, slotLine rest, hrow, slotLine_get rest, fun hne => ⟨slotParity rest, hfp, ?_⟩,
      fun heq hlt => ?_, fun heq hle => ?_⟩
    · rw [decodeSlot_of_otherParity hlen (hid.mpr h) hsel (mt hparity.mpr hne), SlotOp.instr]
    · rw [decodeSlot_of_decreasing hlen (hid.mpr h) hsel (hparity.mp heq) (hrow.symm ▸ hlt), SlotOp.instr]
    · rw [decodeSlot_of_inOrder hlen (hid.mpr h) hsel (hparity.mp heq) (hrow.symm ▸ hle), SlotOp.instr]

/-- Settles O31: the last check of the order, and the line write. -/
theorem lineWritesItsRow : Obligations.LineWritesItsRow := by
  unfold Obligations.LineWritesItsRow
  refine fun row s => ⟨fun rest hlen hid hoff hparity hle => ?_, fun line =>
    ⟨_, exec_duLine row line s, rfl, rowOffset_toNat row, fun r c => writeLine_fb_get s row r line c⟩⟩
  rw [decodeSlot_of_inOrder (c := s.ctx) hlen hid hoff hparity hle, SlotOp.instr]

/-- Settles O32: the ordering check, then the line write in the state that holds the diagnostic. -/
theorem decreasingLineStillWritten : Obligations.DecreasingLineStillWritten := by
  unfold Obligations.DecreasingLineStillWritten
  refine fun row s => ⟨fun rest hlen hid hoff hparity hlt => ?_, fun line =>
    ⟨_, rowOffset row, exec_duLineDecreasing row line s, rfl, rowOffset_toNat row, fun r c =>
      writeLine_fb_get (s.diag (.lineOffsetDecreasing (rowOffset row) s.lastOff)) row r line c⟩⟩
  rw [decodeSlot_of_decreasing (c := s.ctx) hlen hid hoff hparity hlt, SlotOp.instr]

/-- Settles O34: the two equations of the walk; running a slot's class is running its operation. -/
theorem regionWalkedSlotBySlot : Obligations.RegionWalkedSlotBySlot := by
  unfold Obligations.RegionWalkedSlotBySlot
  exact fun dataId rest s => ⟨fun hlen => decodeRegion_tail hlen dataId s, fun hlen =>
    ⟨_, exec_slot (decodeSlot s.ctx rest) s, decodeRegion_slot hlen dataId s⟩⟩

/-- Settles O29: the first two checks of the order, and three operations without an effect. -/
theorem skippedSlotsChangeNothing : Obligations.SkippedSlotsChangeNothing := by
  unfold Obligations.SkippedSlotsChangeNothing
  refine fun s => ⟨fun rest hlen => ?_, fun rest hlen h2 h3 => ?_, fun left => exec_duTailDrop left s,
    fun duId => exec_duSkipId duId s, exec_duSkipShort s⟩
  · rw [decodeSlot_of_short hlen, SlotOp.instr]
  · rw [decodeSlot_of_otherId hlen (mt (duIdOk_iff _).mp (not_or.mpr ⟨h2, h3⟩)), SlotOp.instr]

/-- Settles O30: the range check comes before the parity is looked at, and the effect is that of `diag`. -/
theorem invalidOffsetOnlyDiagnosed : Obligations.InvalidOffsetOnlyDiagnosed := by
  unfold Obligations.InvalidOffsetOnlyDiagnosed
  refine fun s => ⟨fun rest hlen hid hrange => ?_, fun off => exec_duRejOffset off s⟩
  rw [decodeSlot_of_badOffset hlen hid hrange, SlotOp.instr]

end Sys2Proof.Machine
end

section
/-! Bit-Order Table (44_bit_order_table.md): the table holds the library's bit reversal, whose laws give R190 and R192. -/

set_option autoImplicit false

namespace Sys2Proof.Machine

/-- R193's table against R190, entry by entry: the one fact here that looks at the table's 256 bytes. -/
theorem lut_eq_map_reverse : lut = (List.range 256).map fun n => (BitVec.ofNat 8 n).reverse := by decide +kernel

theorem rev_eq_reverse (b : Byte) : rev b = b.reverse := by
  have hentry : (List.range 256)[b.toNat]? = some b.toNat := List.getElem?_range b.isLt
  rw [rev, lut_eq_map_reverse, List.getD_eq_getElem?_getD, List.getElem?_map, hentry, Option.map_some,
    Option.getD_some, BitVec.ofNat_toNat, BitVec.setWidth_eq]

theorem rev_getLsbD (b : Byte) {i : Nat} (h : i < 8) : (rev b).getLsbD i = b.getLsbD (7 - i) := by
  rw [rev_eq_reverse, BitVec.getLsbD_reverse, BitVec.getMsbD_eq_getLsbD, decide_eq_true h, Bool.true_and]

/-- R192. -/
theorem rev_rev (b : Byte) : rev (rev b) = b := by
  rw [rev_eq_reverse, rev_eq_reverse, BitVec.reverse_reverse_eq]

/-- The low `w` bits of a number, weighted and summed, by induction on `w`: each further bit adds its own power of 2. -/
theorem sum_bits_eq_mod (n w : Nat) :
    ((List.range w).map fun i => if n.testBit i then 2 ^ i else 0).sum = n % 2 ^ w := by
  induction w with
  | zero => simp [Nat.mod_one]
  | succ w ih =>
    have hbit : (if n.testBit w then 2 ^ w else 0) = 2 ^ w * (n / 2 ^ w % 2) := by
      rw [← Nat.toNat_testBit]
      cases n.testBit w <;> simp
    rw [List.sum_range_succ, ih, hbit, Nat.mod_pow_succ]

theorem sum_bits_eq_toNat {w : Nat} (x : BitVec w) :
    ((List.range w).map fun i => if x.getLsbD i then 2 ^ i else 0).sum = x.toNat :=
  (sum_bits_eq_mod x.toNat w).trans (Nat.mod_eq_of_lt x.isLt)

/-- R190's sum is the sum of the entry's own bits, since its bit `i` is bit `7 - i` of `b`. -/
theorem rev_toNat (b : Byte) : (rev b).toNat = revSum b := by
  rw [revSum, ← sum_bits_eq_toNat]
  refine congrArg List.sum (List.map_congr_left fun i hi => ?_)
  rw [rev_getLsbD b (List.mem_range.mp hi)]

theorem exec_bitrev (b : Byte) (s : State) : exec (.bitrev b) s = .next { s with result := .reversed (rev b) } := rfl

/-- Settles O37: the effect of BITREV, and the three laws of the table. -/
theorem bitReversal : Obligations.BitReversal := by
  unfold Obligations.BitReversal
  exact fun b s => ⟨exec_bitrev b s, fun _ => rev_getLsbD b, rev_toNat b, rev_rev b⟩

end Sys2Proof.Machine
end

section
/-! The decoder and the encoder (30_encoding.md): what the decoder answers, and which bits and bytes of a unit it reads. -/

set_option autoImplicit false

namespace Sys2Proof.Machine

open Sys2Proof.Laws
open Sys2Proof.Laws.RoundTrip (byteAt_take)

/-- Settles O39: one round-trip lemma for each constructor. -/
theorem decodeEncodeAgree : Obligations.DecodeEncodeAgree := by
  unfold Obligations.DecodeEncodeAgree
  intro i
  cases i with
  | inByte b => exact RoundTrip.inByte b
  | outFrame => exact RoundTrip.outFrame
  | diagEvent d => exact RoundTrip.diagEvent d
  | cancel => exact RoundTrip.cancel
  | statusRead => exact RoundTrip.statusRead
  | reset pid => exact RoundTrip.reset pid
  | tsSyncErr sync => exact RoundTrip.tsSyncErr sync
  | tsPidSkip pid => exact RoundTrip.tsPidSkip pid
  | tsAfc0NoPayload => exact RoundTrip.tsAfc0NoPayload
  | tsAfc1Payload pusi payload => exact RoundTrip.tsAfc1Payload pusi payload
  | tsAfc2NoPayload => exact RoundTrip.tsAfc2NoPayload
  | tsAfc3Payload pusi len rest => exact RoundTrip.tsAfc3Payload pusi len rest
  | pesStart payload => exact RoundTrip.pesStart payload
  | pesContAppend payload => exact RoundTrip.pesContAppend payload
  | pesContDiscard payload => exact RoundTrip.pesContDiscard payload
  | pesOverflow => exact RoundTrip.pesOverflow
  | pesRejShort len => exact RoundTrip.pesRejShort len
  | pesRejPrefix pre => exact RoundTrip.pesRejPrefix pre
  | pesRejStreamId sid => exact RoundTrip.pesRejStreamId sid
  | pesRejTrunc pktLen => exact RoundTrip.pesRejTrunc pktLen
  | pesRejEmpty => exact RoundTrip.pesRejEmpty
  | pesRejDataId dataId => exact RoundTrip.pesRejDataId dataId
  | pesAccept region => exact RoundTrip.pesAccept region
  | duTailDrop left => exact RoundTrip.duTailDrop left
  | duSkipId duId => exact RoundTrip.duSkipId duId
  | duSkipShort => exact RoundTrip.duSkipShort
  | duRejOffset off => exact RoundTrip.duRejOffset off
  | duFieldFlip fp row line => exact RoundTrip.duFieldFlip fp row line
  | duLineDecreasing row line => exact RoundTrip.duLineDecreasing row line
  | duLine row line => exact RoundTrip.duLine row line
  | bitrev b => exact RoundTrip.bitrev b

/-! Byte sequences are known by their length and their bytes. -/

theorem eq_of_byteAt {p q : List Byte} (hlen : p.length = q.length) (h : ∀ i < p.length, byteAt p i = byteAt q i) :
    p = q := by
  refine List.ext_getElem hlen fun i hp hq => ?_
  simpa [byteAt, hp, hq] using h i hp

theorem drop_eq_of_byteAt {p q : List Byte} {n : Nat} (hlen : p.length = q.length)
    (h : ∀ i, n ≤ i → i < p.length → byteAt p i = byteAt q i) : p.drop n = q.drop n := by
  refine eq_of_byteAt (by rw [List.length_drop, List.length_drop, hlen]) fun i hi => ?_
  rw [List.length_drop] at hi
  rw [byteAt_drop, byteAt_drop]
  exact h (n + i) (Nat.le_add_right n i) (by omega)

theorem stride_get (sb : Stride) (i : Fin 188) : sb.get i = byteAt sb.toList i.val := sb.get_eq_getD i 0

theorem stride_slice_length (sb : Stride) (a : Nat) : (slice sb.toList a 187).length = 188 - a :=
  slice_length a (by rw [sb.length_eq]; decide)

/-! Composed fields as numbers (R13, R61). -/

theorem toNat_append_eq {m n : Nat} (x : BitVec m) (y : BitVec n) : (x ++ y).toNat = x.toNat * 2 ^ n + y.toNat := by
  rw [BitVec.toNat_append, ← Nat.shiftLeft_add_eq_or_of_lt y.isLt, Nat.shiftLeft_eq]

theorem be16_toNat (a b : Byte) : (be16 a b).toNat = a.toNat * 256 + b.toNat := toNat_append_eq a b

theorem be24_toNat (a b c : Byte) : (be24 a b c).toNat = a.toNat * 65536 + b.toNat * 256 + c.toNat := by
  rw [be24, toNat_append_eq, toNat_append_eq]
  omega

/-- Settles O12: each field as a number of its own byte or bytes; the rest is arithmetic on the four bytes. -/
theorem headerFieldPositions : Obligations.HeaderFieldPositions := by
  unfold Obligations.HeaderFieldPositions
  intro sb h
  have hpusi : pusiField sb = true ↔ (sb.get 1).toNat / 64 % 2 = 1 := by
    rw [pusiField, BitVec.getLsbD, Nat.testBit_eq_decide_div_mod_eq, decide_eq_true_iff]
  have hpid : (pidField sb).toNat = (sb.get 1).toNat % 2 ^ 5 * 2 ^ 8 + (sb.get 2).toNat := by
    rw [pidField, toNat_append_eq, BitVec.toNat_setWidth]
  have hafc : (afcField sb).toNat = (sb.get 3).toNat / 16 % 4 := by
    rw [afcField, BitVec.extractLsb'_toNat, Nat.shiftRight_eq_div_pow]
  have h1 := (sb.get 1).isLt
  have h2 := (sb.get 2).isLt
  have h3 := (sb.get 3).isLt
  rw [hpusi, hpid, hafc, syncField]
  omega

theorem decodeStride_afc3_inv {c : Ctx} {sb : Stride} {pusi : Bool} {len : Byte} {rest : List Byte}
    (h : decodeStride c sb = .afc3 pusi len rest) :
    pusi = pusiField sb ∧ len = sb.get 4 ∧ rest = slice sb.toList 5 187 := by
  unfold decodeStride at h
  split_ifs at h
  cases h
  exact ⟨rfl, rfl, rfl⟩

/-! The fields the tree does not read (R73). -/

/-- Settles O17: the payload slices agree byte by byte; from an AFC = 3 stride only the bytes from 5 + L on are left. -/
theorem ignoredHeaderBitsIrrelevant : Obligations.IgnoredHeaderBitsIrrelevant := by
  unfold Obligations.IgnoredHeaderBitsIrrelevant
  refine fun c a b hsync hpusi hpid hafc => ⟨fun hbytes => ?_, fun pa la ra pb lb rb ha hb hl hbytes => ?_⟩
  · have hslice (n : Nat) (hn : 4 ≤ n) : slice a.toList n 187 = slice b.toList n 187 := by
      refine eq_of_byteAt (by rw [stride_slice_length, stride_slice_length]) fun i hi => ?_
      rw [stride_slice_length] at hi
      rw [byteAt_slice _ (by omega), byteAt_slice _ (by omega)]
      exact hbytes (n + i) (by omega) (by omega)
    have hlen : a.get 4 = b.get 4 := by
      rw [stride_get, stride_get]
      exact hbytes 4 (Nat.le_refl 4) (by decide)
    rw [decodeStride, decodeStride, hsync, hpid, hafc, hpusi, hslice 4 (by decide), hslice 5 (by decide), hlen]
  · obtain ⟨rfl, rfl, rfl⟩ := decodeStride_afc3_inv ha
    obtain ⟨rfl, rfl, rfl⟩ := decodeStride_afc3_inv hb
    refine ⟨hpusi, hl, ?_⟩
    rw [← hl, afc3Payload, afc3Payload]
    split
    · refine drop_eq_of_byteAt (by rw [stride_slice_length, stride_slice_length]) fun i hi hlt => ?_
      rw [stride_slice_length] at hlt
      rw [byteAt_slice _ (by omega), byteAt_slice _ (by omega)]
      exact hbytes (5 + i) (by omega) (by omega)
    · rfl

/-- Settles O35: a slot is read through its length, its id, FP, OFF and its line only. -/
theorem ignoredSlotBytesIrrelevant : Obligations.IgnoredSlotBytesIrrelevant := by
  unfold Obligations.IgnoredSlotBytesIrrelevant
  intro c a b hlen hid hlow hbytes
  have hparity : slotParity a = slotParity b := by
    rw [← BitVec.toNat_inj, slotParity_toNat, slotParity_toNat]
    omega
  have hoff : slotOffset a = slotOffset b := by
    rw [← BitVec.toNat_inj, slotOffset_toNat, slotOffset_toNat]
    omega
  have hline : slotLine a = slotLine b := Block.ext_get fun k => by
    rw [slotLine_get, slotLine_get]
    exact hbytes (4 + k.val) (by omega) (by omega)
  have hid' (u : List Byte) : byteAt (u.take 46) 0 = byteAt u 0 := byteAt_take (by decide)
  simp only [decodeSlot, List.length_drop, List.length_take, slotParity_take_46, slotOffset_take_46,
    slotLine_take_46, hid', hlen, hid, hparity, hoff, hline]

/-- Settles O26: every header field that the checks read lies outside bytes 6, 7 and 9 to START - 1, and so does the region. -/
theorem skippedPesBytesIrrelevant : Obligations.SkippedPesBytesIrrelevant := by
  unfold Obligations.SkippedPesBytesIrrelevant
  intro p q hlen hbytes
  have hbyte (i : Nat) (h6 : i ≠ 6) (h7 : i ≠ 7) (h9 : i < 9) : byteAt p i = byteAt q i := hbytes i h6 h7 (.inl h9)
  have hpre : pesPrefix p = pesPrefix q := by
    rw [pesPrefix, pesPrefix, hbyte 0, hbyte 1, hbyte 2] <;> decide
  have hsid : pesStreamId p = pesStreamId q := hbyte 3 (by decide) (by decide) (by decide)
  have hpkt : pesPktLen p = pesPktLen q := by
    rw [pesPktLen, pesPktLen, hbyte 4, hbyte 5] <;> decide
  have hstart : pesStartOff p = pesStartOff q := by
    rw [pesStartOff, pesStartOff, hbyte 8] <;> decide
  have hend : pesEndOff p = pesEndOff q := by rw [pesEndOff, pesEndOff, hpkt, hlen]
  have hfrom (i : Nat) (h : pesStartOff p ≤ i) : byteAt p i = byteAt q i := by
    rw [pesStartOff] at h
    exact hbytes i (by omega) (by omega) (.inr h)
  have hregion : pesRegion p = pesRegion q := by
    rw [pesRegion, pesRegion, ← hend, ← hstart, drop_eq_of_byteAt hlen fun i hi _ => hfrom i hi]
  rw [decodePacket, decodePacket, hlen, hpre, hsid, hend, hpkt, hfrom _ (Nat.le_refl _), hstart, hregion]

/-! What the decoder answers (R71). -/

/-- The operation has well-formed operands, the context selects it, and it has a unit of its own. -/
def HasUnit (c : Ctx) (i : Instr) : Prop :=
  WellFormed i = true ∧ selectedBy c i = true ∧ (encode c i).isSome = true

theorem hasUnit_stride (c : Ctx) (sb : Stride) : HasUnit c (decodeStride c sb).instr := by
  unfold decodeStride
  split_ifs with hsync hpid
  · exact ⟨rfl, decide_eq_true hsync, rfl⟩
  · exact ⟨rfl, decide_eq_true hpid, rfl⟩
  · exact ⟨rfl, rfl, rfl⟩
  · exact ⟨decide_eq_true (stride_slice_length sb 4), rfl, rfl⟩
  · exact ⟨rfl, rfl, rfl⟩
  · exact ⟨decide_eq_true (stride_slice_length sb 5), rfl, rfl⟩

theorem hasUnit_fragment (c : Ctx) (isStart active : Bool) {payload : List Byte} (h : payload.length ≤ 184) :
    HasUnit c (decodeFragment isStart active payload).instr := by
  unfold decodeFragment
  split_ifs <;> exact ⟨decide_eq_true h, rfl, rfl⟩

theorem pesRegion_length {p : List Byte} (h : pesEndOff p ≤ p.length) :
    (pesRegion p).length = pesEndOff p - pesStartOff p := by
  rw [pesRegion, List.length_take, List.length_drop]
  omega

theorem byteAt_pesRegion {p : List Byte} {i : Nat} (h : i < pesEndOff p - pesStartOff p) :
    byteAt (pesRegion p) i = byteAt p (pesStartOff p + i) := by
  rw [pesRegion, byteAt_take h, byteAt_drop]

theorem hasUnit_packet (c : Ctx) {p : List Byte} (hne : p ≠ []) : HasUnit c (decodePacket p).instr := by
  unfold decodePacket
  split_ifs with hshort hpre hsid htrunc hempty hid
  · exact ⟨decide_eq_true ⟨List.length_pos_iff.mpr hne, hshort⟩, rfl, rfl⟩
  · exact ⟨decide_eq_true hpre, rfl, rfl⟩
  · exact ⟨decide_eq_true hsid, rfl, rfl⟩
  · have hlong : 3 < (pesPktLen p).toNat := by
      unfold pesEndOff at htrunc
      split at htrunc <;> omega
    exact ⟨decide_eq_true hlong, rfl, rfl⟩
  · exact ⟨rfl, rfl, rfl⟩
  · exact ⟨hid, rfl, rfl⟩
  · have hlen := pesRegion_length (Nat.le_of_not_lt htrunc)
    have hregion : pesRegion p ≠ [] := by
      rw [← List.length_pos_iff]
      omega
    have hfirst : byteAt (pesRegion p) 0 = byteAt p (pesStartOff p) := byteAt_pesRegion (by omega)
    refine ⟨?_, rfl, rfl⟩
    simpa [WellFormed, PacketOp.instr, hregion, hfirst] using hid

theorem hasUnit_slot (c : Ctx) (rest : List Byte) : HasUnit c (decodeSlot c rest).instr := by
  simp only [decodeSlot]
  split_ifs with hshort hid hdata hrange hparity hlt
  · exact ⟨decide_eq_true hshort, rfl, rfl⟩
  · exact ⟨hid, rfl, rfl⟩
  · rw [List.length_drop, List.length_take] at hdata
    omega
  · exact ⟨rfl, decide_eq_true hparity, rfl⟩
  · refine ⟨rfl, decide_eq_true ?_, rfl⟩
    rw [rowOffset_toNat, Nat.sub_add_cancel hrange.1]
    exact hlt
  · refine ⟨rfl, decide_eq_true ?_, rfl⟩
    rw [rowOffset_toNat, Nat.sub_add_cancel hrange.1]
    exact Nat.le_of_not_lt hlt
  · exact ⟨decide_eq_true (by omega), rfl, rfl⟩

/-- A record is refused as reserved, or it is exactly the bytes of the diagnostic it is read as. -/
theorem decodeDiag_cases (bs : List Byte) :
    decodeDiag bs = .error .reservedDiag ∨ ∃ d, decodeDiag bs = .ok (.diagEvent d) ∧ diagBytes d = bs := by
  generalize hr : decodeDiag bs = r
  unfold decodeDiag at hr
  extract_lets found at hr
  clear_value found
  cases found with
  | none => exact .inl hr.symm
  | some d =>
    by_cases hbytes : diagBytes d = bs
    · exact .inr ⟨d, hr.symm.trans (if_pos hbytes), hbytes⟩
    · exact .inl (hr.symm.trans (if_neg hbytes))

theorem decodeReset_ok {h l : Byte} {i : Instr} (hok : decodeReset h l = .ok i) : ∃ pid, i = .reset pid := by
  unfold decodeReset at hok
  split at hok
  · cases hok
    exact ⟨_, rfl⟩
  · cases hok

/-- Whatever the decoder answers has a unit, by the format. -/
theorem hasUnit_of_decode (c : Ctx) : ∀ (f : Format) (bs : List Byte) (i : Instr), decode c f bs = .ok i → HasUnit c i
  | .portIn, [_], _, rfl => ⟨rfl, rfl, rfl⟩
  | .portOut, [], _, rfl => ⟨rfl, rfl, rfl⟩
  | .portDiag, bs, _, h => by
    change decodeDiag bs = _ at h
    obtain hd | ⟨d, hd, _⟩ := decodeDiag_cases bs <;> rw [hd] at h <;> cases h
    exact ⟨rfl, rfl, rfl⟩
  | .portCancel, [], _, rfl => ⟨rfl, rfl, rfl⟩
  | .portStatus, [], _, rfl => ⟨rfl, rfl, rfl⟩
  | .portReset, [_, _], _, h => by
    obtain ⟨pid, rfl⟩ := decodeReset_ok h
    exact ⟨rfl, rfl, rfl⟩
  | .tsPacket, bs, _, h => by
    change decodeStrideUnit c bs = _ at h
    unfold decodeStrideUnit at h
    split at h
    · cases h
      exact hasUnit_stride c _
    · cases h
  | .fragment, w :: payload, _, h => by
    change decodeFragmentUnit w payload = _ at h
    unfold decodeFragmentUnit at h
    split_ifs at h with _ hlen
    cases h
    exact hasUnit_fragment c _ _ (Nat.le_of_not_lt hlen)
  | .pesPacket, b :: p, _, rfl => hasUnit_packet c (List.cons_ne_nil b p)
  | .duSlot, rest, _, h => by
    rw [RoundTrip.slot_unit] at h
    cases h
    exact hasUnit_slot c rest
  | .lut, [_], _, rfl => ⟨rfl, rfl, rfl⟩

/-- Settles O40. -/
theorem decodedIsWellFormed : Obligations.DecodedIsWellFormed := by
  unfold Obligations.DecodedIsWellFormed
  intro c f bs i h
  obtain ⟨hwf, hsel, _⟩ := hasUnit_of_decode c f bs i h
  exact ⟨hwf, hsel⟩

/-- Settles O28: the two operations have no unit. -/
theorem neverSelectedOperations : Obligations.NeverSelectedOperations := by
  unfold Obligations.NeverSelectedOperations
  refine fun c f bs => ⟨fun h => ?_, fun h => ?_⟩ <;>
  · obtain ⟨_, _, hunit⟩ := hasUnit_of_decode c f bs _ h
    cases hunit

/-! Diagnostic records (R221). -/

theorem diagCode_range (d : Diag) : 1 ≤ (diagCode d).toNat ∧ (diagCode d).toNat ≤ 8 := by
  cases d <;> simp [diagCode]

theorem decodeDiag_reserved {code : Byte} (h : code.toNat = 0 ∨ 8 < code.toNat) (args : List Byte) :
    decodeDiag (code :: args) = .error .reservedDiag := by
  obtain herror | ⟨d, _, hbytes⟩ := decodeDiag_cases (code :: args)
  · exact herror
  · obtain ⟨rfl, -⟩ := List.cons.inj hbytes
    have := diagCode_range d
    omega

/-- Settles O41: an argument keeps its value in its 24-bit field, and no reserved code names a diagnostic. -/
theorem diagnosticCodes : Obligations.DiagnosticCodes := by
  unfold Obligations.DiagnosticCodes
  have hwide {n : Nat} (hn : n ≤ 24) (v : BitVec n) : (v.setWidth 24).toNat = v.toNat :=
    BitVec.toNat_setWidth_of_le hn
  refine ⟨fun b => ⟨rfl, ?_⟩, fun n => ⟨rfl, rfl⟩, fun v => ⟨rfl, rfl⟩, fun b => ⟨rfl, ?_⟩, fun k => ⟨rfl, ?_⟩,
    fun o => ⟨rfl, ?_⟩, fun o l => ⟨rfl, ?_⟩, ⟨rfl, rfl⟩, fun c code args h => decodeDiag_reserved h args⟩ <;>
  simp only [diagArgs, List.map, hwide (show 8 ≤ 24 by decide), hwide (show 16 ≤ 24 by decide),
    hwide (show 5 ≤ 24 by decide)]

/-- Settles O42: nine fixed words. -/
theorem decodeSampleWords : Obligations.DecodeSampleWords := by
  unfold Obligations.DecodeSampleWords
  decide +kernel

end Sys2Proof.Machine
end

section
/-! What an operation can do to the state, said once: `exec_effect` sorts every completed operation into seven effects. -/

set_option autoImplicit false

namespace Sys2Proof.Machine

/-! Steps that move no stream data on: at most SB, the host's records and diagnostics change. -/

/-- `t` differs from `s` only in SB, SB_CNT, the returned value, the bytes still offered, and diagnostics in the trace. -/
structure State.Quiet (s t : State) : Prop where
  frame : t = { s with sb := t.sb, sbCnt := t.sbCnt, trace := t.trace, result := t.result, offered := t.offered }
  diags : ∃ ds : List Diag, t.trace = s.trace ++ ds.map .diag

theorem State.Quiet.of_sameTrace {s t : State}
    (h : t = { s with sb := t.sb, sbCnt := t.sbCnt, result := t.result, offered := t.offered }) : s.Quiet t := by
  have htrace : t.trace = s.trace := by rw [h]
  refine ⟨?_, [], by rw [htrace, List.map_nil, List.append_nil]⟩
  rw [htrace]
  exact h

theorem State.Quiet.refl (s : State) : s.Quiet s := .of_sameTrace rfl

theorem quiet_returns (s : State) (r : Result) : s.Quiet (s.returns r) := .of_sameTrace rfl

theorem quiet_diag (s : State) (d : Diag) : s.Quiet (s.diag d) := ⟨rfl, [d], rfl⟩

theorem quiet_diag_returns (s : State) (d : Diag) (r : Result) : s.Quiet ((s.diag d).returns r) := ⟨rfl, [d], rfl⟩

/-! The input byte (R100, R200). -/

section InByte

variable {b : Byte} {s : State}

theorem whenConfigured_of_configured (hc : s.configured = true) (t : State) : whenConfigured s t = .next t :=
  if_pos hc

theorem exec_inByte_ready (hc : s.configured = true) (hr : s.inReady = true) :
    exec (.inByte b) s = .next (strideAssembly b s) :=
  (whenConfigured_of_configured hc _).trans (by rw [if_pos hr])

theorem exec_inByte_waits (hc : s.configured = true) (hr : ¬ s.inReady = true) :
    exec (.inByte b) s = .next { s with offered := b :: s.offered } :=
  (whenConfigured_of_configured hc _).trans (by rw [if_neg hr])

theorem strideAssembly_last (h : s.sbCnt.val = 187) :
    strideAssembly b s = processStride { s with sb := s.sb.set s.sbCnt b, sbCnt := 0 } := by
  rw [strideAssembly, dif_pos h]

theorem strideAssembly_stores (h : s.sbCnt.val ≠ 187) :
    strideAssembly b s = { s with sb := s.sb.set s.sbCnt b, sbCnt := ⟨s.sbCnt.val + 1, by omega⟩ } := by
  rw [strideAssembly, dif_neg h]

end InByte

/-- A stride whose class has no fragment changes nothing but the trace. -/
theorem processStride_quiet {s : State} (h : strideFragment s.pesActive (decodeStride s.ctx s.sb) = none) :
    s.Quiet (processStride s) := by
  unfold processStride
  generalize decodeStride s.ctx s.sb = op at h
  cases op with
  | syncErr sync => exact quiet_diag s (.syncMissing sync)
  | pidSkip | afc0 | afc2 => exact .refl s
  | afc1 | afc3 => cases h

/-! The reassembler's operations (R120). -/

/-- The operation a fragment selected. -/
def runFragment (op : FragmentOp) (s : State) : State :=
  match op with
  | .start payload => pesStart payload s
  | .contAppend payload => pesContAppend payload s
  | .contDiscard payload => pesContDiscard payload s

theorem exec_runFragment (op : FragmentOp) (s : State) : exec op.instr s = .next (runFragment op s) := by
  cases op <;> rfl

theorem pesFragment_eq (payload : List Byte) (isStart : Bool) (s : State) :
    pesFragment payload isStart s = runFragment (decodeFragment isStart s.pesActive payload) s := rfl

theorem pesContAppend_strideStep (payload : List Byte) (s : State) : s.StrideStep (pesContAppend payload s) := by
  unfold pesContAppend
  split <;> rfl

theorem runFragment_strideStep (op : FragmentOp) (s : State) : s.StrideStep (runFragment op s) := by
  cases op with
  | start payload => exact (closePacket_strideStep s).trans (openPacket_strideStep _ _)
  | contAppend payload => exact pesContAppend_strideStep payload s
  | contDiscard payload => rfl

/-- A fragment is handed on in the operation's own state, or once the last byte of the stride is stored. -/
theorem handed_quiet {i : Instr} {s u : State} {op : FragmentOp} (h : handed i s = some (u, op)) : s.Quiet u := by
  unfold handed at h
  split at h
  case h_1 =>
    split at h
    · obtain ⟨_, _, he⟩ := Option.map_eq_some_iff.mp h
      obtain ⟨rfl, -⟩ := Prod.mk.inj he
      exact .of_sameTrace rfl
    · cases h
  case h_2 | h_3 | h_4 | h_5 | h_6 =>
    cases h
    exact .refl s
  all_goals cases h

theorem handed_slot (op : SlotOp) (s : State) : handed op.instr s = none := by
  cases op <;> rfl

/-! The seven effects. -/

/-- What an operation that completes in `s` has done. -/
inductive State.Effect (s : State) : Instr → State → Prop where
  | reset (pid : Pid) : s.Effect (.reset pid) (resetBlock pid s)
  | outFrame : s.Effect .outFrame (takeFrame s)
  | cancel : s.Effect .cancel { s with halted := true }
  | overflow : s.Effect .pesOverflow (pesOverflow s)
  | slot (op : SlotOp) : s.Effect op.instr (runSlot op s)
  | fragment {i : Instr} {u : State} {op : FragmentOp} (hhanded : handed i s = some (u, op)) :
      s.Effect i (runFragment op u)
  | quiet {i : Instr} {t : State} (hhanded : handed i s = none) (hoverflow : i ≠ .pesOverflow) (hquiet : s.Quiet t) :
      s.Effect i t

theorem inByte_effect {b : Byte} {s t : State} (h : exec (.inByte b) s = .next t) : s.Effect (.inByte b) t := by
  have hc : s.configured = true := (whenConfigured_next.mp h).1
  cases hhanded : handed (.inByte b) s with
  | some p =>
    rw [exec_handed hhanded hc, exec_runFragment] at h
    cases h
    exact .fragment hhanded
  | none =>
    refine .quiet hhanded nofun ?_
    by_cases hr : s.inReady = true
    · rw [exec_inByte_ready hc hr] at h
      cases h
      by_cases hlast : s.sbCnt.val = 187
      · rw [strideAssembly_last hlast]
        rw [handed, if_pos ⟨hr, hlast⟩, Option.map_eq_none_iff] at hhanded
        have hstride : State.Quiet { s with sb := s.sb.set s.sbCnt b, sbCnt := 0 } _ := processStride_quiet hhanded
        exact ⟨hstride.frame, hstride.diags⟩
      · rw [strideAssembly_stores hlast]
        exact .of_sameTrace rfl
    · rw [exec_inByte_waits hc hr] at h
      cases h
      exact .of_sameTrace rfl

theorem exec_effect {i : Instr} {s t : State} (h : exec i s = .next t) : s.Effect i t := by
  cases i with
  | inByte b => exact inByte_effect h
  | outFrame =>
    obtain ⟨_, rfl⟩ := whenConfigured_next.mp h
    exact .outFrame
  | cancel =>
    obtain ⟨_, rfl⟩ := whenConfigured_next.mp h
    exact .cancel
  | statusRead =>
    obtain ⟨_, rfl⟩ := whenConfigured_next.mp h
    exact .quiet rfl nofun (quiet_returns s _)
  | reset pid =>
    cases h
    exact .reset pid
  | pesOverflow =>
    cases h
    exact .overflow
  | diagEvent | tsSyncErr =>
    cases h
    exact .quiet rfl nofun (quiet_diag s _)
  | tsPidSkip | tsAfc0NoPayload | tsAfc2NoPayload =>
    cases h
    exact .quiet rfl nofun (.refl s)
  | tsAfc1Payload | tsAfc3Payload =>
    cases h
    exact .fragment rfl
  | pesStart payload =>
    cases h
    exact .fragment (op := .start payload) rfl
  | pesContAppend payload =>
    cases h
    exact .fragment (op := .contAppend payload) rfl
  | pesContDiscard payload =>
    cases h
    exact .fragment (op := .contDiscard payload) rfl
  | pesRejShort | pesRejPrefix | pesRejStreamId | pesRejTrunc =>
    cases h
    exact .quiet rfl nofun (quiet_diag_returns s _ _)
  | pesRejEmpty | pesRejDataId | pesAccept | bitrev =>
    cases h
    exact .quiet rfl nofun (quiet_returns s _)
  | duTailDrop left =>
    cases h
    exact .slot (.tailDrop left)
  | duSkipId duId =>
    cases h
    exact .slot (.skipId duId)
  | duSkipShort =>
    cases h
    exact .slot .skipShort
  | duRejOffset off =>
    cases h
    exact .slot (.rejOffset off)
  | duFieldFlip fp row line =>
    cases h
    exact .slot (.fieldFlip fp row line)
  | duLineDecreasing row line =>
    cases h
    exact .slot (.lineDecreasing row line)
  | duLine row line =>
    cases h
    exact .slot (.lineInOrder row line)

end Sys2Proof.Machine
end

section
/-! What every operation keeps (10_state.md, 60_exceptions.md, 45_host_interface.md R202 and R204): the setup, HALTED and OVF,
and the trace with the output queue, each read off the seven effects. -/

set_option autoImplicit false

namespace Sys2Proof.Machine

/-! The setup: parameters, CFG_PID, the configured bit, the host's turns. -/

/-- What no operation but RESET writes. -/
structure State.SameSetup (s t : State) : Prop where
  params : t.params = s.params
  cfgPid : t.cfgPid = s.cfgPid
  configured : t.configured = s.configured
  agenda : t.agenda = s.agenda

theorem State.StrideStep.sameSetup {s t : State} (h : s.StrideStep t) : s.SameSetup t := by
  rw [h]
  exact ⟨rfl, rfl, rfl, rfl⟩

theorem State.Quiet.sameSetup {s t : State} (h : s.Quiet t) : s.SameSetup t := by
  rw [h.frame]
  exact ⟨rfl, rfl, rfl, rfl⟩

theorem State.SameSetup.trans {s t u : State} (h : s.SameSetup t) (k : t.SameSetup u) : s.SameSetup u :=
  ⟨k.params.trans h.params, k.cfgPid.trans h.cfgPid, k.configured.trans h.configured, k.agenda.trans h.agenda⟩

/-- OUT_FRAME writes only OUTQ and the sink's record. -/
theorem takeFrame_frame (s : State) : takeFrame s = { s with outq := (takeFrame s).outq, taken := (takeFrame s).taken } := by
  unfold takeFrame
  split <;> rfl

theorem exec_sameSetup {i : Instr} {s t : State} (h : exec i s = .next t) (hne : ∀ pid, i ≠ .reset pid) :
    s.SameSetup t := by
  cases exec_effect h with
  | reset pid => exact absurd rfl (hne pid)
  | outFrame =>
    rw [takeFrame_frame]
    exact ⟨rfl, rfl, rfl, rfl⟩
  | cancel => exact ⟨rfl, rfl, rfl, rfl⟩
  | overflow => exact (pesOverflow_strideStep s).sameSetup
  | slot op => exact (runSlot_decoderStep op s).toStride.sameSetup
  | fragment hhanded => exact (handed_quiet hhanded).sameSetup.trans (runFragment_strideStep _ _).sameSetup
  | quiet _ _ hquiet => exact hquiet.sameSetup

theorem exec_reset (pid : Pid) (s : State) : exec (.reset pid) s = .next (resetBlock pid s) := rfl

/-- Settles O46: RESET aside, every operation keeps the whole setup. -/
theorem pidOnlyByReset : Obligations.PidOnlyByReset := by
  unfold Obligations.PidOnlyByReset
  intro i s t h
  by_cases hreset : ∃ pid, i = .reset pid
  · obtain ⟨pid, rfl⟩ := hreset
    cases h
    exact ⟨rfl, fun _ => rfl, fun hne => absurd rfl (hne pid)⟩
  · have hsame := exec_sameSetup h (not_exists.mp hreset)
    exact ⟨hsame.params, fun hc => hsame.configured.trans hc, fun _ => hsame.cfgPid⟩

/-- Settles O4: the four refusals, RESET, and the configured bit kept by every other operation. -/
theorem refusedBeforeFirstReset : Obligations.RefusedBeforeFirstReset := by
  unfold Obligations.RefusedBeforeFirstReset
  refine ⟨fun s b pid hc => ?_, fun i s t hc h hne => (exec_sameSetup h hne).configured.trans hc⟩
  have hrefused (t : State) : whenConfigured s t = .refused .beforeReset := by
    rw [whenConfigured, hc]
    rfl
  exact ⟨hrefused _, hrefused _, hrefused _, hrefused _, _, exec_reset pid s, rfl⟩

/-! HALTED and OVF. -/

theorem exec_halted {i : Instr} {s t : State} (h : exec i s = .next t) (hne : ∀ pid, i ≠ .reset pid)
    (hcancel : i ≠ .cancel) : t.halted = s.halted := by
  cases exec_effect h with
  | reset pid => exact absurd rfl (hne pid)
  | outFrame => rw [takeFrame_frame]
  | cancel => exact absurd rfl hcancel
  | overflow => rfl
  | slot op => rw [runSlot_decoderStep op s]
  | fragment hhanded => rw [runFragment_strideStep, (handed_quiet hhanded).frame]
  | quiet _ _ hquiet => rw [hquiet.frame]

theorem pesContAppend_ovf (payload : List Byte) (s : State) :
    (pesContAppend payload s).ovf = true ↔ s.ovf = true ∨ s.overCap (s.pb.length + payload.length) = true := by
  unfold pesContAppend
  split
  case isTrue hcap => exact iff_of_true rfl (.inr hcap)
  case isFalse hcap => simp [hcap]

theorem openPacket_ovf (payload : List Byte) (s : State) :
    (openPacket payload s).ovf = true ↔ s.ovf = true ∨ s.overCap payload.length = true := by
  unfold openPacket
  split
  case isTrue hcap => exact iff_of_true rfl (.inr hcap)
  case isFalse hcap => simp [hcap]

/-- A reassembler operation raises OVF exactly when its cap check fires; the delivery before a start leaves OVF and the cap. -/
theorem runFragment_ovf (op : FragmentOp) (s : State) :
    (runFragment op s).ovf = true ↔ s.ovf = true ∨ s.exceedsCap op := by
  cases op with
  | start payload =>
    have hovf : (closePacket s).ovf = s.ovf := by rw [closePacket_decoderStep s]
    have h := openPacket_ovf payload (closePacket s)
    rwa [overCap_iff, hovf, closePacket_params] at h
  | contAppend payload =>
    have h := pesContAppend_ovf payload s
    rwa [overCap_iff] at h
  | contDiscard payload => simp [runFragment, pesContDiscard, State.exceedsCap]

theorem exec_ovf {i : Instr} {s t : State} (h : exec i s = .next t) (hne : ∀ pid, i ≠ .reset pid) :
    t.ovf = true ↔ s.ovf = true ∨ i = .pesOverflow ∨ ∃ u op, handed i s = some (u, op) ∧ u.exceedsCap op := by
  cases exec_effect h with
  | reset pid => exact absurd rfl (hne pid)
  | outFrame =>
    rw [takeFrame_frame]
    simp [handed]
  | cancel => simp [handed]
  | overflow => simp [pesOverflow]
  | slot op =>
    rw [runSlot_decoderStep op s, handed_slot]
    cases op <;> simp [SlotOp.instr]
  | fragment hhanded =>
    have hovf := congrArg State.ovf (handed_quiet hhanded).frame
    have hother : i ≠ .pesOverflow := by
      rintro rfl
      cases hhanded
    rw [runFragment_ovf, hovf]
    simp [hhanded, hother]
  | quiet hhanded hoverflow hquiet =>
    rw [hquiet.frame]
    simp [hhanded, hoverflow]

/-- Settles O47: `exec_halted` and `exec_ovf`; with no cap no fragment exceeds it. -/
theorem haltedAndOvfSticky : Obligations.HaltedAndOvfSticky := by
  unfold Obligations.HaltedAndOvfSticky
  intro i s t h hne
  have hovf := exec_ovf h hne
  refine ⟨fun hs => ?_, fun hs => hovf.mpr (.inl hs), exec_halted h hne, fun hcap hi => ?_, hovf⟩
  · by_cases hcancel : i = .cancel
    · subst hcancel
      obtain ⟨_, rfl⟩ := whenConfigured_next.mp h
      rfl
    · rw [exec_halted h hne hcancel, hs]
  · have hfits : ¬ ∃ u op, handed i s = some (u, op) ∧ u.exceedsCap op := by
      rintro ⟨u, op, hhanded, hexceeds⟩
      have hnone : u.params.pesCap = none := by rw [(handed_quiet hhanded).sameSetup.params, hcap]
      cases op <;> simp [State.exceedsCap, hnone] at hexceeds
    rw [Bool.eq_iff_iff, hovf]
    simp [hi, hfits]

/-! STATUS (R29). -/

/-- The three low bits of a byte built as STATUS is. -/
theorem status_bits (ready ovf halted : Bool) :
    let v : Byte := 0#5 ++ (BitVec.ofBool ready ++ (BitVec.ofBool ovf ++ BitVec.ofBool halted))
    v.getLsbD 0 = halted ∧ v.getLsbD 1 = ovf ∧ v.getLsbD 2 = ready := by
  revert ready ovf halted
  decide

theorem status_halted (s : State) : s.status.getLsbD 0 = s.halted := by
  obtain ⟨h, _, _⟩ := status_bits s.inReady s.ovf s.halted
  exact h

theorem status_ovf (s : State) : s.status.getLsbD 1 = s.ovf := by
  obtain ⟨_, h, _⟩ := status_bits s.inReady s.ovf s.halted
  exact h

theorem status_inReady (s : State) : s.status.getLsbD 2 = s.inReady := by
  obtain ⟨_, _, h⟩ := status_bits s.inReady s.ovf s.halted
  exact h

theorem status_high (s : State) {i : Nat} (h : 3 ≤ i) : s.status.getLsbD i = false := by
  have hi : ¬ i < 1 + (1 + 1) := by omega
  rw [State.status, BitVec.getLsbD_append, if_neg hi]
  exact BitVec.getLsbD_zero

theorem status_of_clear {s : State} (hhalted : s.halted = false) (hovf : s.ovf = false) (houtq : s.outq = []) :
    s.status = 0x04 := by
  rw [State.status, State.inReady, hhalted, hovf, houtq]
  rfl

/-- Settles O10: RESET writes each element; HALTED and OVF are sticky under the others by O47. -/
theorem resetSetsEveryElement : Obligations.ResetSetsEveryElement := by
  unfold Obligations.ResetSetsEveryElement
  refine ⟨fun pid s => ⟨_, exec_reset pid s, rfl, rfl, rfl, rfl, rfl, rfl, zeroFieldBuffer_get, rfl, rfl, rfl, rfl, rfl,
    status_of_clear rfl rfl rfl, rfl, rfl, rfl, rfl⟩, fun i s t h hne => ?_⟩
  obtain ⟨hhalted, hovf, _⟩ := haltedAndOvfSticky i s t h hne
  exact ⟨hhalted, hovf⟩

/-! The trace and the output queue (R202, R204). -/

/-- The events added to the trace, and to OUTQ exactly their frames. -/
def State.Emits (s t : State) : Prop := ∃ events, t.trace = s.trace ++ events ∧ t.outq = s.outq ++ framesOf events

theorem State.Emits.of_same {s t : State} (htrace : t.trace = s.trace) (houtq : t.outq = s.outq) : s.Emits t :=
  ⟨[], by rw [htrace, List.append_nil], by rw [houtq, framesOf, List.append_nil]⟩

theorem State.Emits.refl (s : State) : s.Emits s := .of_same rfl rfl

theorem State.Emits.trans {s t u : State} (h : s.Emits t) (k : t.Emits u) : s.Emits u := by
  obtain ⟨es, hes, hqs⟩ := h
  obtain ⟨fs, hfs, hgs⟩ := k
  refine ⟨es ++ fs, ?_, ?_⟩
  · rw [hfs, hes, List.append_assoc]
  · rw [hgs, hqs, framesOf_append, List.append_assoc]

theorem emits_diag (s : State) (d : Diag) : s.Emits (s.diag d) := ⟨[.diag d], rfl, (List.append_nil _).symm⟩

@[simp] theorem framesOf_map_diag (ds : List Diag) : framesOf (ds.map .diag) = [] := by
  induction ds with
  | nil => rfl
  | cons d ds ih => exact ih

theorem State.Quiet.emits {s t : State} (h : s.Quiet t) : s.Emits t := by
  obtain ⟨ds, hds⟩ := h.diags
  refine ⟨ds.map .diag, hds, ?_⟩
  rw [framesOf_map_diag, List.append_nil, h.frame]

theorem runSlot_emits (op : SlotOp) (s : State) : s.Emits (runSlot op s) := by
  cases op with
  | tailDrop | skipId | skipShort => exact .refl s
  | rejOffset off => exact emits_diag s _
  | fieldFlip fp row line => exact ⟨[.frame (serialise s.fb)], rfl, rfl⟩
  | lineDecreasing row line =>
    exact ⟨[.diag (.lineOffsetDecreasing (rowOffset row) s.lastOff)], rfl, (List.append_nil _).symm⟩
  | lineInOrder row line => exact .of_same rfl rfl

theorem decodeRegion_emits (region : List Byte) (s : State) : s.Emits (decodeRegion region s) :=
  decodeRegion_keeps s.Emits (fun op u h => h.trans (runSlot_emits op u)) region (.refl s)

/-- Delivering a rejected packet only raises its diagnostic, if it has one (R142 to R147). -/
theorem pesDeliver_quiet {q : List Byte} (h : ∀ region, decodePacket q ≠ .accept region) (s : State) :
    s.Quiet (pesDeliver q s) := by
  unfold pesDeliver
  generalize decodePacket q = op at h
  cases op with
  | rejShort | rejPrefix | rejStreamId | rejTrunc => exact quiet_diag s _
  | rejEmpty | rejDataId => exact .refl s
  | accept region => exact absurd rfl (h region)

theorem pesDeliver_accept {q region : List Byte} (h : decodePacket q = .accept region) (s : State) :
    pesDeliver q s = decodeRegion region s := by
  rw [pesDeliver, h]
  rfl

theorem pesDeliver_emits (q : List Byte) (s : State) : s.Emits (pesDeliver q s) := by
  by_cases h : ∃ region, decodePacket q = .accept region
  · obtain ⟨region, hregion⟩ := h
    rw [pesDeliver_accept hregion]
    exact decodeRegion_emits region s
  · exact (pesDeliver_quiet (not_exists.mp h) s).emits

theorem closePacket_eq (s : State) :
    closePacket s = if s.pb = [] then s else pesDeliver s.pb { s with pb := [] } := by
  simp only [closePacket, List.isEmpty_iff]

theorem closePacket_emits (s : State) : s.Emits (closePacket s) := by
  unfold closePacket
  split
  · exact .refl s
  · exact State.Emits.trans (t := { s with pb := [] }) (.of_same rfl rfl) (pesDeliver_emits s.pb _)

theorem pesOverflow_emits (s : State) : s.Emits (pesOverflow s) := emits_diag s .pesOverflow

theorem openPacket_emits (payload : List Byte) (s : State) : s.Emits (openPacket payload s) := by
  unfold openPacket
  split
  · exact pesOverflow_emits s
  · exact .of_same rfl rfl

theorem runFragment_emits (op : FragmentOp) (s : State) : s.Emits (runFragment op s) := by
  cases op with
  | start payload => exact (closePacket_emits s).trans (openPacket_emits payload _)
  | contAppend payload =>
    change s.Emits (pesContAppend payload s)
    unfold pesContAppend
    split
    · exact pesOverflow_emits s
    · exact .of_same rfl rfl
  | contDiscard payload => exact .refl s

theorem takeFrame_trace (s : State) : (takeFrame s).trace = s.trace := by rw [takeFrame_frame]

theorem exec_emits {i : Instr} {s t : State} (h : exec i s = .next t) (hne : ∀ pid, i ≠ .reset pid)
    (hout : i ≠ .outFrame) : s.Emits t := by
  cases exec_effect h with
  | reset pid => exact absurd rfl (hne pid)
  | outFrame => exact absurd rfl hout
  | cancel => exact .of_same rfl rfl
  | overflow => exact pesOverflow_emits s
  | slot op => exact runSlot_emits op s
  | fragment hhanded => exact (handed_quiet hhanded).emits.trans (runFragment_emits _ _)
  | quiet _ _ hquiet => exact hquiet.emits

/-- Settles O48: OUT_FRAME adds no event, and the others are `exec_emits`. -/
theorem traceAndQueueOnlyGrow : Obligations.TraceAndQueueOnlyGrow := by
  unfold Obligations.TraceAndQueueOnlyGrow
  intro i s t h hne
  by_cases hout : i = .outFrame
  · subst hout
    obtain ⟨_, rfl⟩ := whenConfigured_next.mp h
    exact ⟨[], by rw [takeFrame_trace, List.append_nil], fun hne => absurd rfl hne⟩
  · obtain ⟨events, htrace, houtq⟩ := exec_emits h hne hout
    exact ⟨events, htrace, fun _ => houtq⟩

/-! The frames of a delivery (R172). -/

/-- A walk emits the Field Buffer at each of its flips. -/
theorem walkSlots_frames (fuel : Nat) (rest : List Byte) (s : State) :
    framesOf (walkSlots fuel rest s).trace = framesOf s.trace ++ flipFrames fuel rest s := by
  induction fuel generalizing rest s with
  | zero => exact (List.append_nil _).symm
  | succ n ih =>
    unfold walkSlots flipFrames
    split
    case isTrue hshort => rw [runSlot_tail hshort, List.append_nil]
    case isFalse =>
      rw [ih, runSlot_frames, List.append_assoc]
      generalize decodeSlot s.ctx rest = op
      cases op <;> rfl

theorem State.Quiet.frames {s t : State} (h : s.Quiet t) : framesOf t.trace = framesOf s.trace := by
  obtain ⟨ds, hds⟩ := h.diags
  rw [hds, framesOf_append, framesOf_map_diag, List.append_nil]

theorem deliveryFrames_reject {q : List Byte} (h : ∀ region, decodePacket q ≠ .accept region) (s : State) :
    deliveryFrames q s = [] := by
  unfold deliveryFrames
  split
  case h_1 region hq => exact absurd hq (h region)
  all_goals rfl

theorem pesDeliver_frames (q : List Byte) (s : State) :
    framesOf (pesDeliver q s).trace = framesOf s.trace ++ deliveryFrames q s := by
  by_cases h : ∃ region, decodePacket q = .accept region
  · obtain ⟨region, hregion⟩ := h
    rw [pesDeliver_accept hregion, deliveryFrames, hregion]
    exact walkSlots_frames _ _ _
  · have hreject := not_exists.mp h
    rw [(pesDeliver_quiet hreject s).frames, deliveryFrames_reject hreject, List.append_nil]

theorem closePacket_frames (s : State) :
    framesOf (closePacket s).trace =
      framesOf s.trace ++ if s.pb = [] then [] else deliveryFrames s.pb { s with pb := [] } := by
  rw [closePacket_eq]
  split
  · exact (List.append_nil _).symm
  · exact pesDeliver_frames s.pb { s with pb := [] }

theorem pesOverflow_frames (s : State) : framesOf (pesOverflow s).trace = framesOf s.trace := by
  simp [pesOverflow]

theorem openPacket_frames (payload : List Byte) (s : State) :
    framesOf (openPacket payload s).trace = framesOf s.trace := by
  unfold openPacket
  split
  · exact pesOverflow_frames s
  · rfl

theorem pesContAppend_frames (payload : List Byte) (s : State) :
    framesOf (pesContAppend payload s).trace = framesOf s.trace := by
  unfold pesContAppend
  split
  · exact pesOverflow_frames s
  · rfl

/-- The reassembler operation an operation runs emits the frames of its delivery. -/
theorem runFragment_frames {i : Instr} {s u : State} {op : FragmentOp} (h : handed i s = some (u, op)) :
    framesOf (runFragment op u).trace = framesOf s.trace ++ deliveredFrames i s := by
  rw [deliveredFrames, h, ← (handed_quiet h).frames]
  cases op with
  | start payload => exact (openPacket_frames payload _).trans (closePacket_frames u)
  | contAppend payload => exact (pesContAppend_frames payload u).trans (List.append_nil _).symm
  | contDiscard payload => exact (List.append_nil _).symm

theorem deliveredFrames_of_none {i : Instr} {s : State} (h : handed i s = none) : deliveredFrames i s = [] := by
  rw [deliveredFrames, h]

/-- Only a stride's payload or a PES_START can start a packet (R121, R125). -/
theorem deliveredFrames_eq_nil {i : Instr} (s : State) (hin : ∀ b, i ≠ .inByte b)
    (hafc1 : ∀ p l, i ≠ .tsAfc1Payload p l) (hafc3 : ∀ p n l, i ≠ .tsAfc3Payload p n l)
    (hstart : ∀ l, i ≠ .pesStart l) : deliveredFrames i s = [] := by
  cases i with
  | inByte b => exact absurd rfl (hin b)
  | tsAfc1Payload p l => exact absurd rfl (hafc1 p l)
  | tsAfc3Payload p n l => exact absurd rfl (hafc3 p n l)
  | pesStart l => exact absurd rfl (hstart l)
  | _ => rfl

theorem exec_frames {i : Instr} {s t : State} (h : exec i s = .next t) (hflip : ∀ p r l, i ≠ .duFieldFlip p r l)
    (hne : ∀ pid, i ≠ .reset pid) : framesOf t.trace = framesOf s.trace ++ deliveredFrames i s := by
  cases exec_effect h with
  | reset pid => exact absurd rfl (hne pid)
  | outFrame =>
    rw [takeFrame_trace]
    exact (List.append_nil _).symm
  | cancel => exact (List.append_nil _).symm
  | overflow => exact (pesOverflow_frames s).trans (List.append_nil _).symm
  | slot op =>
    rw [runSlot_frames, deliveredFrames_of_none (handed_slot op s)]
    cases op with
    | fieldFlip fp row line => exact absurd rfl (hflip fp row line)
    | _ => rfl
  | fragment hhanded => exact runFragment_frames hhanded
  | quiet hhanded _ hquiet => rw [hquiet.frames, deliveredFrames_of_none hhanded, List.append_nil]

/-- Settles O49: DU_FIELD_FLIP by its own effect; the others by `exec_frames`. -/
theorem onlyFieldFlipEmits : Obligations.OnlyFieldFlipEmits := by
  unfold Obligations.OnlyFieldFlipEmits
  refine fun i s t h => ⟨fun hin hafc1 hafc3 hstart hflip hne => ?_, fun p r l hi => ?_, exec_frames h⟩
  · rw [exec_frames h hflip hne, deliveredFrames_eq_nil s hin hafc1 hafc3 hstart, List.append_nil]
  · subst hi
    rw [exec_duFieldFlip] at h
    cases h
    rw [framesOf_append, framesOf_frame]

end Sys2Proof.Machine
end

section
/-! The step and the host's transactions (45_host_interface.md, 70_reset_and_hazards.md), with the small effects of the other units. -/

set_option autoImplicit false

namespace Sys2Proof.Machine

open Sys2Proof.Laws

/-! The step (R208, R234): one equation for each turn of a host agent. -/

section Turns

variable {s : State} {rest : List HostAct}

theorem step_of_fetch {t : State} {f : Format} {bs : List Byte} {i : Instr} (hfetch : fetch s = (some (f, bs), t))
    (hdecode : decode t.ctx f bs = .ok i) : step s = exec i t := by
  simp only [step, hfetch, hdecode]

theorem step_of_idle {t : State} (hfetch : fetch s = (none, t)) : step s = .next t := by
  simp only [step, hfetch]

theorem step_nothing (h : s.agenda = []) : step s = .next s := step_of_idle (by rw [fetch, h])

theorem step_offer {b : Byte} {bs : List Byte} (h : s.agenda = .offer :: rest) (hoffered : s.offered = b :: bs) :
    step s = exec (.inByte b) { s with agenda := rest, offered := bs } :=
  step_of_fetch (f := .portIn) (bs := [b]) (by simp only [fetch, h, hoffered]) rfl

theorem step_offer_nothing (h : s.agenda = .offer :: rest) (hoffered : s.offered = []) :
    step s = .next { s with agenda := rest } :=
  step_of_idle (by simp only [fetch, h, hoffered])

theorem step_take (h : s.agenda = .take :: rest) : step s = exec .outFrame { s with agenda := rest } :=
  step_of_fetch (by rw [fetch, h]) rfl

theorem step_cancel (h : s.agenda = .cancel :: rest) : step s = exec .cancel { s with agenda := rest } :=
  step_of_fetch (by rw [fetch, h]) rfl

theorem step_readStatus (h : s.agenda = .readStatus :: rest) : step s = exec .statusRead { s with agenda := rest } :=
  step_of_fetch (by rw [fetch, h]) rfl

/-- A RESET request is read back as its operand if that has 13 bits (R250, I6). -/
theorem decode_resetRequest (c : Ctx) (w : BitVec 16) :
    decode c .portReset (bytes16 w) =
      if w.toNat ≤ 0x1FFF then .ok (.reset (w.setWidth 13)) else .error .pidTooWide := by
  change decodeReset _ _ = _
  rw [decodeReset, RoundTrip.be16_bytes16]

theorem step_reset {w : BitVec 16} (h : s.agenda = .reset w :: rest) (hw : w.toNat ≤ 0x1FFF) :
    step s = exec (.reset (w.setWidth 13)) { s with agenda := rest } :=
  step_of_fetch (by rw [fetch, h]) (by rw [decode_resetRequest, if_pos hw])

theorem step_reset_wide {w : BitVec 16} (h : s.agenda = .reset w :: rest) (hw : 0x1FFF < w.toNat) :
    step s = .refused (.undecodable .pidTooWide) := by
  have hfetch : fetch s = (some (.portReset, bytes16 w), { s with agenda := rest }) := by rw [fetch, h]
  simp only [step, hfetch, decode_resetRequest, if_neg (Nat.not_le.mpr hw)]

end Turns

/-- Settles O1. -/
theorem stepRunsDecodedOperation : Obligations.StepRunsDecodedOperation := by
  unfold Obligations.StepRunsDecodedOperation
  exact fun s t f bs i => step_of_fetch

/-- Settles O2: the equations of the turns; a 13-bit operand is within the limit of R250 and is its own low 13 bits. -/
theorem hostTurnsRunTheirTransaction : Obligations.HostTurnsRunTheirTransaction := by
  unfold Obligations.HostTurnsRunTheirTransaction
  refine fun s rest => ⟨step_nothing, fun b bs => step_offer, step_offer_nothing, step_take, step_cancel,
    step_readStatus, fun pid h => ?_, fun wide => step_reset_wide⟩
  have hpid : (pid.setWidth 16).setWidth 13 = pid := by
    rw [BitVec.setWidth_setWidth_of_le _ (by decide), BitVec.setWidth_eq]
  have hnarrow : (pid.setWidth 16).toNat ≤ 0x1FFF := by
    rw [BitVec.toNat_setWidth_of_le (by decide)]
    have := pid.isLt
    omega
  rw [step_reset h hnarrow, hpid]

/-! The transactions that are refused before the first RESET (R252). -/

theorem whenConfigured_refused {s t : State} {r : Refusal} (h : whenConfigured s t = .refused r) :
    s.configured = false ∧ r = .beforeReset := by
  unfold whenConfigured at h
  split at h
  case isTrue => cases h
  case isFalse hc =>
    cases h
    exact ⟨eq_false_of_ne_true hc, rfl⟩

/-- Settles O3: only four arms of exec can refuse, and there is no fault. -/
theorem everyOperationCompletes : Obligations.EveryOperationCompletes := by
  unfold Obligations.EveryOperationCompletes
  refine fun i s => ⟨fun hc => ?_, fun f => (nomatch f), fun r h => ?_⟩
  · cases i with
    | inByte | outFrame | cancel | statusRead => exact ⟨_, whenConfigured_of_configured hc _⟩
    | _ => exact ⟨_, rfl⟩
  · cases i with
    | inByte b => exact (whenConfigured_refused h).imp_right fun hr => ⟨hr, .inl ⟨b, rfl⟩⟩
    | outFrame => exact (whenConfigured_refused h).imp_right fun hr => ⟨hr, .inr (.inl rfl)⟩
    | cancel => exact (whenConfigured_refused h).imp_right fun hr => ⟨hr, .inr (.inr (.inl rfl))⟩
    | statusRead => exact (whenConfigured_refused h).imp_right fun hr => ⟨hr, .inr (.inr (.inr rfl))⟩
    | _ => cases h

/-- Settles O5: IN_READY decides whether the byte is taken, SB_CNT whether it completes the stride. -/
theorem inByteAssemblesStrides : Obligations.InByteAssemblesStrides := by
  unfold Obligations.InByteAssemblesStrides
  refine fun b s hc => ⟨fun hhalted hovf houtq => ?_, fun hwait => ?_⟩
  · rw [exec_inByte_ready hc ((inReady_iff s).mpr ⟨hhalted, hovf, houtq⟩)]
    refine ⟨fun hlt => ?_, fun hlast => ?_⟩
    · have hnext : s.sbCnt + 1 = ⟨s.sbCnt.val + 1, by omega⟩ := by
        apply Fin.ext
        rw [Fin.val_add]
        exact Nat.mod_eq_of_lt (by omega)
      rw [strideAssembly_stores (Nat.ne_of_lt hlt), hnext]
      exact ⟨rfl, rfl⟩
    · rw [strideAssembly_last hlast]
      exact ⟨_, rfl, exec_stride { s with sb := s.sb.set s.sbCnt b, sbCnt := 0 }, processStride_strideStep _⟩
  · refine exec_inByte_waits hc fun hr => ?_
    obtain ⟨hhalted, hovf, houtq⟩ := (inReady_iff s).mp hr
    rw [hhalted, hovf] at hwait
    simp [houtq] at hwait

/-- Settles O6. -/
theorem outFrameDeliversOldest : Obligations.OutFrameDeliversOldest := by
  unfold Obligations.OutFrameDeliversOldest
  refine fun s hc => ⟨fun f rest h => ?_, fun h => ?_⟩ <;>
  · refine (whenConfigured_of_configured hc _).trans ?_
    rw [takeFrame, h]

/-- Settles O7: the effect of `diag`. -/
theorem diagEventOnlyTraced : Obligations.DiagEventOnlyTraced := by
  unfold Obligations.DiagEventOnlyTraced
  exact fun d s => rfl

/-- Settles O8. -/
theorem cancelHalts : Obligations.CancelHalts := by
  unfold Obligations.CancelHalts
  exact fun s hc => ⟨whenConfigured_of_configured hc _, rfl,
    whenConfigured_of_configured (s := { s with halted := true }) hc _⟩

/-- Settles O9: the byte is STATUS. -/
theorem statusReadReturnsStatus : Obligations.StatusReadReturnsStatus := by
  unfold Obligations.StatusReadReturnsStatus
  refine fun s hc => ⟨s.status, whenConfigured_of_configured hc _, status_halted s, status_ovf s, ?_,
    fun i => status_high s⟩
  rw [status_inReady, inReady_iff]

/-- Settles O11. -/
theorem stateAfterResetValues : Obligations.StateAfterResetValues := by
  unfold Obligations.StateAfterResetValues
  exact ⟨fun p pid => ⟨rfl, rfl, rfl, rfl, rfl, rfl, rfl, zeroFieldBuffer_get, rfl, rfl, status_of_clear rfl rfl rfl⟩,
    defaultParams, rfl, rfl, rfl⟩

/-! The other units' operations with a fixed effect. -/

/-- Settles O21. -/
theorem overflowStopsInput : Obligations.OverflowStopsInput := by
  unfold Obligations.OverflowStopsInput
  refine fun s => ⟨_, exec_pesOverflow s, rfl, eq_false_of_ne_true fun hr => ?_⟩
  obtain ⟨_, hovf, _⟩ := (inReady_iff _).mp hr
  cases hovf

/-- Settles O24: each rejection is its diagnostic, if any, and the returned value. -/
theorem parserRejections : Obligations.ParserRejections := by
  unfold Obligations.ParserRejections
  exact fun s => ⟨fun len => rfl, fun pre => rfl, fun sid => rfl, fun pktLen => rfl, rfl, fun dataId => rfl⟩

/-- Settles O38: all 256 bytes, with the table's entries as `BitVec.reverse`. -/
theorem selfReversedBytes : Obligations.SelfReversedBytes := by
  unfold Obligations.SelfReversedBytes
  simp only [rev_eq_reverse]
  decide +kernel

end Sys2Proof.Machine
end

section
/-! The invariants between operations (10_state.md R34): PB, LAST_OFF and the sink's record, each kept by its own argument. -/

set_option autoImplicit false

namespace Sys2Proof.Machine

/-! The invariant has three parts: what R34 says of PB with its cap and PES_ACTIVE, of LAST_OFF, and of the sink (R204). -/

structure State.PbInv (s : State) : Prop where
  withinCap : ∀ cap, s.params.pesCap = some cap → s.pb.length ≤ cap
  inactiveEmpty : s.pesActive = false → s.pb = []
  activeNonempty : s.params.emptyStartOpens = false → s.pesActive = true → s.pb ≠ []

def State.LastOffLegal (s : State) : Prop := s.lastOff = 0 ∨ (7 ≤ s.lastOff.toNat ∧ s.lastOff.toNat ≤ 22)

def State.SinkFrames (s : State) : Prop := s.taken ++ s.outq = framesOf s.trace

theorem inv_iff (s : State) : s.Inv ↔ s.PbInv ∧ s.LastOffLegal ∧ s.SinkFrames :=
  ⟨fun h => ⟨⟨h.pbWithinCap, h.inactiveEmpty, h.activeNonempty⟩, h.lastOffLegal, h.sinkFrames⟩,
    fun ⟨hpb, hoff, hsink⟩ => ⟨hoff, hpb.withinCap, hpb.inactiveEmpty, hpb.activeNonempty, hsink⟩⟩

/-! PB. -/

theorem pbInv_of_empty {s : State} (hpb : s.pb = []) (hactive : s.pesActive = false) : s.PbInv := by
  refine ⟨fun cap _ => ?_, fun _ => hpb, fun _ h => ?_⟩
  · rw [hpb]
    exact Nat.zero_le cap
  · rw [hactive] at h
    cases h

theorem State.PbInv.congr {s t : State} (h : s.PbInv) (hparams : t.params = s.params) (hpb : t.pb = s.pb)
    (hactive : t.pesActive = s.pesActive) : t.PbInv := by
  constructor <;> rw [hpb]
  · rw [hparams]
    exact h.withinCap
  · rw [hactive]
    exact h.inactiveEmpty
  · rw [hparams, hactive]
    exact h.activeNonempty

theorem le_of_not_overCap {s : State} {n : Nat} (h : ¬ s.overCap n = true) (cap : Nat)
    (hcap : s.params.pesCap = some cap) : n ≤ cap := by
  by_contra hlt
  exact h (overCap_of_exceeds hcap (Nat.lt_of_not_le hlt))

/-- Whatever was in PB before, a start fragment leaves it as R34 asks. -/
theorem openPacket_pbInv (payload : List Byte) (s : State) : (openPacket payload s).PbInv := by
  unfold openPacket
  split
  case isTrue => exact pbInv_of_empty rfl rfl
  case isFalse hcap =>
    refine ⟨le_of_not_overCap hcap, fun hactive => ?_, fun hopens hactive => ?_⟩
    · obtain ⟨_, hempty⟩ := Bool.or_eq_false_iff.mp hactive
      simpa using hempty
    · change (s.params.emptyStartOpens || !payload.isEmpty) = true at hactive
      change s.params.emptyStartOpens = false at hopens
      simpa [hopens] using hactive

theorem pesContAppend_pbInv {payload : List Byte} {s : State} (h : s.PbInv) (hactive : s.pesActive = true) :
    (pesContAppend payload s).PbInv := by
  unfold pesContAppend
  split
  case isTrue => exact pbInv_of_empty rfl rfl
  case isFalse hcap =>
    refine ⟨fun cap hfinite => ?_, fun hinactive => ?_, fun hopens _ hempty => ?_⟩
    · rw [List.length_append]
      exact le_of_not_overCap hcap cap hfinite
    · rw [hactive] at hinactive
      cases hinactive
    · exact h.activeNonempty hopens hactive (List.append_eq_nil_iff.mp hempty).1

theorem runFragment_pbInv {op : FragmentOp} {s : State} (h : s.PbInv)
    (hactive : ∀ payload, op = .contAppend payload → s.pesActive = true) : (runFragment op s).PbInv := by
  cases op with
  | start payload => exact openPacket_pbInv payload _
  | contAppend payload => exact pesContAppend_pbInv h (hactive payload rfl)
  | contDiscard payload => exact h

theorem decodeFragment_contAppend {isStart active : Bool} {payload p : List Byte}
    (h : decodeFragment isStart active payload = .contAppend p) : active = true := by
  unfold decodeFragment at h
  split_ifs at h with _ hactive
  exact hactive

/-- A stride's payload is appended only to an active packet (R120); PES_CONT_APPEND by itself is not so limited. -/
theorem handed_contAppend {i : Instr} {s u : State} {op : FragmentOp} (h : handed i s = some (u, op))
    (hne : ∀ p, i ≠ .pesContAppend p) (payload : List Byte) (hop : op = .contAppend payload) : u.pesActive = true := by
  subst hop
  unfold handed at h
  split at h
  case h_1 b =>
    split at h
    · obtain ⟨fragment, hf, he⟩ := Option.map_eq_some_iff.mp h
      obtain ⟨rfl, rfl⟩ := Prod.mk.inj he
      unfold strideFragment at hf
      split at hf
      case h_4 | h_6 => exact decodeFragment_contAppend (Option.some.inj hf)
      all_goals cases hf
    · cases h
  case h_2 | h_3 =>
    obtain ⟨rfl, hf⟩ := Prod.mk.inj (Option.some.inj h)
    exact decodeFragment_contAppend hf
  case h_5 payload => exact absurd rfl (hne payload)
  all_goals cases h

/-! LAST_OFF: 0, or the offset of the last line written. -/

theorem runSlot_lastOffLegal (op : SlotOp) (s : State) (h : s.LastOffLegal) : (runSlot op s).LastOffLegal := by
  cases op with
  | tailDrop | skipId | skipShort | rejOffset => exact h
  | fieldFlip _ row _ | lineDecreasing row _ | lineInOrder row _ => exact .inr (rowOffset_legal row)

theorem pesDeliver_lastOffLegal (q : List Byte) {s : State} (h : s.LastOffLegal) : (pesDeliver q s).LastOffLegal := by
  by_cases haccept : ∃ region, decodePacket q = .accept region
  · obtain ⟨region, hregion⟩ := haccept
    rw [pesDeliver_accept hregion]
    exact decodeRegion_keeps _ runSlot_lastOffLegal region h
  · unfold State.LastOffLegal
    rw [(pesDeliver_quiet (not_exists.mp haccept) s).frame]
    exact h

theorem closePacket_lastOffLegal {s : State} (h : s.LastOffLegal) : (closePacket s).LastOffLegal := by
  unfold closePacket
  split
  · exact h
  · exact pesDeliver_lastOffLegal s.pb (s := { s with pb := [] }) h

theorem openPacket_lastOff (payload : List Byte) (s : State) : (openPacket payload s).lastOff = s.lastOff := by
  unfold openPacket
  split <;> rfl

theorem pesContAppend_lastOff (payload : List Byte) (s : State) : (pesContAppend payload s).lastOff = s.lastOff := by
  unfold pesContAppend
  split <;> rfl

theorem runFragment_lastOffLegal (op : FragmentOp) {s : State} (h : s.LastOffLegal) :
    (runFragment op s).LastOffLegal := by
  cases op with
  | start payload =>
    unfold State.LastOffLegal runFragment pesStart
    rw [openPacket_lastOff]
    exact closePacket_lastOffLegal h
  | contAppend payload =>
    unfold State.LastOffLegal runFragment
    rw [pesContAppend_lastOff]
    exact h
  | contDiscard payload => exact h

/-! The sink (R204): what is queued and traced together keeps the record. -/

theorem State.SinkFrames.of_emits {s t : State} (h : s.SinkFrames) (hemits : s.Emits t) (htaken : t.taken = s.taken) :
    t.SinkFrames := by
  obtain ⟨events, htrace, houtq⟩ := hemits
  unfold State.SinkFrames at h ⊢
  rw [htaken, houtq, htrace, framesOf_append, ← h, List.append_assoc]

theorem takeFrame_sinkFrames {s : State} (h : s.SinkFrames) : (takeFrame s).SinkFrames := by
  unfold takeFrame
  split
  case h_1 => exact h
  case h_2 f rest houtq =>
    unfold State.SinkFrames at h ⊢
    rw [houtq] at h
    rw [← h]
    exact List.append_assoc s.taken [f] rest

/-! Every operation, then every step. -/

theorem resetBlock_inv (pid : Pid) (s : State) : (resetBlock pid s).Inv :=
  (inv_iff _).mpr ⟨pbInv_of_empty rfl rfl, .inl rfl, rfl⟩

theorem resetOf_inv (p : Params) (pid : Pid) : (State.resetOf p pid).Inv :=
  (inv_iff _).mpr ⟨pbInv_of_empty rfl rfl, .inl rfl, rfl⟩

theorem State.Quiet.inv {s t : State} (h : s.Quiet t) (hs : s.Inv) : t.Inv := by
  obtain ⟨hpb, hoff, hsink⟩ := (inv_iff s).mp hs
  refine (inv_iff t).mpr ⟨hpb.congr ?_ ?_ ?_, ?_, hsink.of_emits h.emits ?_⟩
  case refine_4 =>
    unfold State.LastOffLegal
    rw [h.frame]
    exact hoff
  all_goals rw [h.frame]

/-- PES_CONT_APPEND run by itself in an inactive state is the one operation that could fill PB with PES_ACTIVE = 0; no turn of the
host runs it. -/
theorem exec_inv {i : Instr} {s t : State} (h : exec i s = .next t) (hne : ∀ p, i ≠ .pesContAppend p) (hs : s.Inv) :
    t.Inv := by
  obtain ⟨hpb, hoff, hsink⟩ := (inv_iff s).mp hs
  cases exec_effect h with
  | reset pid => exact resetBlock_inv pid s
  | outFrame =>
    refine (inv_iff _).mpr ⟨hpb.congr ?_ ?_ ?_, ?_, takeFrame_sinkFrames hsink⟩
    case refine_4 =>
      rw [takeFrame_frame]
      exact hoff
    all_goals rw [takeFrame_frame]
  | cancel => exact (inv_iff _).mpr ⟨hpb.congr rfl rfl rfl, hoff, hsink⟩
  | overflow => exact (inv_iff _).mpr ⟨pbInv_of_empty rfl rfl, hoff, hsink.of_emits (pesOverflow_emits s) rfl⟩
  | slot op =>
    refine (inv_iff _).mpr ⟨hpb.congr ?_ ?_ ?_, runSlot_lastOffLegal op s hoff, hsink.of_emits (runSlot_emits op s) ?_⟩ <;>
      rw [runSlot_decoderStep op s]
  | fragment hhanded =>
    obtain ⟨hpb', hoff', hsink'⟩ := (inv_iff _).mp ((handed_quiet hhanded).inv hs)
    refine (inv_iff _).mpr ⟨runFragment_pbInv hpb' (handed_contAppend hhanded hne), runFragment_lastOffLegal _ hoff',
      hsink'.of_emits (runFragment_emits _ _) ?_⟩
    rw [runFragment_strideStep]
  | quiet _ _ hquiet => exact hquiet.inv hs

/-- A step takes the turn off and then is done or runs one operation, never PES_CONT_APPEND. -/
theorem step_cases {s t : State} (h : step s = .next t) : ∃ u : State,
    u = { s with offered := u.offered, agenda := u.agenda } ∧
      (t = u ∨ ∃ i, exec i u = .next t ∧ ∀ p, i ≠ .pesContAppend p) := by
  cases hagenda : s.agenda with
  | nil =>
    rw [step_nothing hagenda] at h
    cases h
    exact ⟨s, rfl, .inl rfl⟩
  | cons act rest =>
    cases act with
    | offer =>
      cases hoffered : s.offered with
      | nil =>
        rw [step_offer_nothing hagenda hoffered] at h
        cases h
        exact ⟨_, rfl, .inl rfl⟩
      | cons b bs =>
        rw [step_offer hagenda hoffered] at h
        exact ⟨_, rfl, .inr ⟨_, h, nofun⟩⟩
    | take =>
      rw [step_take hagenda] at h
      exact ⟨_, rfl, .inr ⟨_, h, nofun⟩⟩
    | cancel =>
      rw [step_cancel hagenda] at h
      exact ⟨_, rfl, .inr ⟨_, h, nofun⟩⟩
    | readStatus =>
      rw [step_readStatus hagenda] at h
      exact ⟨_, rfl, .inr ⟨_, h, nofun⟩⟩
    | reset w =>
      by_cases hw : w.toNat ≤ 0x1FFF
      · rw [step_reset hagenda hw] at h
        exact ⟨_, rfl, .inr ⟨_, h, nofun⟩⟩
      · rw [step_reset_wide hagenda (Nat.lt_of_not_le hw)] at h
        cases h

/-- Settles O43: the host's side is no part of the invariants, and the operation keeps them. -/
theorem stepKeepsInvariants : Obligations.StepKeepsInvariants := by
  unfold Obligations.StepKeepsInvariants
  intro s t hs h
  obtain ⟨u, hu, hstep⟩ := step_cases h
  have huinv : u.Inv := by
    rw [hu]
    exact ⟨hs.lastOffLegal, hs.pbWithinCap, hs.inactiveEmpty, hs.activeNonempty, hs.sinkFrames⟩
  obtain rfl | ⟨i, hexec, hne⟩ := hstep
  · exact huinv
  · exact exec_inv hexec hne huinv

/-- Settles O44. -/
theorem resetMeetsInvariants : Obligations.ResetMeetsInvariants := by
  unfold Obligations.ResetMeetsInvariants
  exact fun p pid => ⟨resetOf_inv p pid, resetOf_inv defaultParams 0⟩

/-- Settles O45: the facts on STATUS follow from IN_READY, those on SB_CNT and the frames' length from their types. -/
theorem invariantsGiveSevenFacts : Obligations.InvariantsGiveSevenFacts := by
  unfold Obligations.InvariantsGiveSevenFacts
  intro s hs
  have hready : s.status.getLsbD 2 = true ↔ s.halted = false ∧ s.ovf = false ∧ s.outq = [] := by
    rw [status_inReady, inReady_iff]
  refine ⟨Nat.le_of_lt_succ s.sbCnt.isLt, hs.lastOffLegal.imp_left (congrArg BitVec.toNat), hs.pbWithinCap,
    hs.inactiveEmpty, fun houtq => eq_false_of_ne_true fun h => ?_, fun f _ => f.length_eq,
    fun hovf => eq_false_of_ne_true fun h => ?_⟩
  · obtain ⟨_, _, hempty⟩ := hready.mp h
    exact houtq hempty
  · obtain ⟨_, hclear, _⟩ := hready.mp h
    rw [status_ovf, hclear] at hovf
    cases hovf

end Sys2Proof.Machine
end

section
/-! PES Header Parser (42_pes_header_parser.md): the checks on a packet in their order, and what a delivery does with the answer. -/

set_option autoImplicit false

namespace Sys2Proof.Machine

/-! The header fields as numbers (R64, R141). -/

theorem pesPrefix_toNat (p : List Byte) :
    (pesPrefix p).toNat = (byteAt p 0).toNat * 65536 + (byteAt p 1).toNat * 256 + (byteAt p 2).toNat :=
  be24_toNat _ _ _

theorem pesPktLen_toNat (p : List Byte) : (pesPktLen p).toNat = (byteAt p 4).toNat * 256 + (byteAt p 5).toNat :=
  be16_toNat _ _

theorem pesEndOff_eq (p : List Byte) :
    pesEndOff p = if 0 < (pesPktLen p).toNat then 6 + (pesPktLen p).toNat else p.length := by
  have hne : pesPktLen p ≠ 0 ↔ 0 < (pesPktLen p).toNat := by
    rw [Nat.pos_iff_ne_zero, Ne, ← BitVec.toNat_inj]
    rfl
  simp only [pesEndOff, hne]

theorem dataIdOk_iff (d : Byte) : dataIdOk d = true ↔ 0x10 ≤ d.toNat ∧ d.toNat ≤ 0x1F := decide_eq_true_iff

/-! The selection of a packet, one equation per check in the order of R140. -/

section Selection

variable {p : List Byte}

theorem decodePacket_of_short (h : p.length < 9) : decodePacket p = .rejShort p.length := by
  rw [decodePacket, if_pos h]

variable (hlen : 9 ≤ p.length)
include hlen

theorem decodePacket_of_badPrefix (h : pesPrefix p ≠ 1) : decodePacket p = .rejPrefix (pesPrefix p) := by
  rw [decodePacket, if_neg (Nat.not_lt.mpr hlen), if_pos h]

variable (hpre : pesPrefix p = 1)
include hpre

theorem decodePacket_of_badStreamId (h : pesStreamId p ≠ 0xBD) : decodePacket p = .rejStreamId (pesStreamId p) := by
  rw [decodePacket, if_neg (Nat.not_lt.mpr hlen), if_neg (not_not_intro hpre), if_pos h]

variable (hsid : pesStreamId p = 0xBD)
include hsid

theorem decodePacket_of_truncated (h : p.length < pesEndOff p) : decodePacket p = .rejTrunc (pesPktLen p) := by
  rw [decodePacket, if_neg (Nat.not_lt.mpr hlen), if_neg (not_not_intro hpre), if_neg (not_not_intro hsid), if_pos h]

variable (hend : pesEndOff p ≤ p.length)
include hend

/-- Past the check of END only the emptiness and the data identifier are looked at. -/
theorem decodePacket_of_complete :
    decodePacket p =
      if pesEndOff p ≤ pesStartOff p then .rejEmpty
      else if !dataIdOk (byteAt p (pesStartOff p)) then .rejDataId (byteAt p (pesStartOff p))
      else .accept (pesRegion p) := by
  rw [decodePacket, if_neg (Nat.not_lt.mpr hlen), if_neg (not_not_intro hpre), if_neg (not_not_intro hsid),
    if_neg (Nat.not_lt.mpr hend)]

theorem decodePacket_of_empty (h : pesEndOff p ≤ pesStartOff p) : decodePacket p = .rejEmpty := by
  rw [decodePacket_of_complete hlen hpre hsid hend, if_pos h]

variable (hstart : pesStartOff p < pesEndOff p)
include hstart

theorem decodePacket_of_badDataId (h : ¬ dataIdOk (byteAt p (pesStartOff p)) = true) :
    decodePacket p = .rejDataId (byteAt p (pesStartOff p)) := by
  rw [decodePacket_of_complete hlen hpre hsid hend, if_neg (Nat.not_le.mpr hstart), if_pos (by simpa using h)]

theorem decodePacket_of_accepted (h : dataIdOk (byteAt p (pesStartOff p)) = true) :
    decodePacket p = .accept (pesRegion p) := by
  rw [decodePacket_of_complete hlen hpre hsid hend, if_neg (Nat.not_le.mpr hstart), if_neg (by simpa using h)]

end Selection

/-! What the selected operation returns and what the delivery does. -/

theorem instr_eq_pesAccept {op : PacketOp} {region : List Byte} : op.instr = .pesAccept region ↔ op = .accept region := by
  cases op <;> simp [PacketOp.instr]

theorem exec_pesAccept (region : List Byte) (s : State) :
    exec (.pesAccept region) s = .next { s with result := .region region } := rfl

/-- A rejected packet's operation is its delivery and the returned reject. -/
theorem exec_rejected {q : List Byte} (h : ∀ region, decodePacket q ≠ .accept region) (s : State) :
    exec (decodePacket q).instr s = .next { pesDeliver q s with result := .reject } := by
  unfold pesDeliver
  generalize decodePacket q = op at h
  cases op with
  | accept region => exact absurd rfl (h region)
  | _ => rfl

/-- Settles O25. -/
theorem deliveryParsesThenDecodes : Obligations.DeliveryParsesThenDecodes := by
  unfold Obligations.DeliveryParsesThenDecodes
  simp only [instr_eq_pesAccept, ne_eq]
  exact fun q s => ⟨fun region => exec_pesAccept region s, fun region h => pesDeliver_accept h s,
    fun h => exec_rejected h s⟩

/-- Settles O23: one equation of the check order per clause, the header's fields read as numbers. -/
theorem parserCheckOrder : Obligations.ParserCheckOrder := by
  unfold Obligations.ParserCheckOrder
  intro p s pre pktLen start stop dataId
  have hprefix : (pesPrefix p).toNat = pre := pesPrefix_toNat p
  have hpktLen : (pesPktLen p).toNat = pktLen := pesPktLen_toNat p
  have hpre : pre = 1 ↔ pesPrefix p = 1 := by
    rw [← hprefix, ← BitVec.toNat_inj]
    rfl
  have hstop : pesEndOff p = stop := by rw [pesEndOff_eq, hpktLen]
  have hid : dataIdOk (byteAt p (pesStartOff p)) = true ↔ 0x10 ≤ dataId.toNat ∧ dataId.toNat ≤ 0x1F := dataIdOk_iff _
  refine ⟨fun hlen => ?_, fun hlen hne => ⟨pesPrefix p, hprefix, ?_⟩, fun hlen hone hsid => ?_,
    fun hlen hone hsid hlong => ⟨pesPktLen p, hpktLen, ?_⟩, fun hlen hone hsid hend hempty => ?_,
    fun hlen hone hsid hend hstart hbad => ?_, fun hlen hone hsid hend hstart hok => ?_, fun hreject => ?_⟩
  · rw [decodePacket_of_short hlen, PacketOp.instr]
  · rw [decodePacket_of_badPrefix hlen (mt hpre.mpr hne), PacketOp.instr]
  · rw [decodePacket_of_badStreamId hlen (hpre.mp hone) hsid, PacketOp.instr, pesStreamId]
  · rw [decodePacket_of_truncated hlen (hpre.mp hone) hsid (hstop ▸ hlong), PacketOp.instr]
  · rw [decodePacket_of_empty hlen (hpre.mp hone) hsid (hstop ▸ hend) (hstop ▸ hempty), PacketOp.instr]
  · rw [decodePacket_of_badDataId hlen (hpre.mp hone) hsid (hstop ▸ hend) (hstop ▸ hstart) (mt hid.mp hbad),
      PacketOp.instr]
    rfl
  · rw [← hstop] at hend hstart
    have hlength := pesRegion_length hend
    refine ⟨pesRegion p, ?_, ?_, fun i hi => byteAt_pesRegion (hlength ▸ hi), exec_pesAccept _ s⟩
    · rw [decodePacket_of_accepted hlen (hpre.mp hone) hsid hend hstart (hid.mpr hok), PacketOp.instr]
    · rw [hlength, hstop]
      rfl
  · exact ⟨_, exec_rejected (fun region h => hreject region (instr_eq_pesAccept.mpr h)) s, rfl⟩

end Sys2Proof.Machine
end

section
/-! The two laws the spec derives: reassembly of a packet from its fragments (41_pes_reassembler.md), and the one frame of a field
(43_teletext_decoder.md section 4). -/

set_option autoImplicit false

namespace Sys2Proof.Machine

/-! Reassembly. -/

/-- A start fragment within the cap. -/
theorem exec_pesStart_within {payload : List Byte} {s : State}
    (hcap : ∀ cap, s.params.pesCap = some cap → payload.length ≤ cap) :
    exec (.pesStart payload) s =
      .next { closePacket s with pb := payload, pesActive := s.params.emptyStartOpens || !payload.isEmpty } := by
  rw [← closePacket_params] at hcap ⊢
  rw [exec_pesStart, openPacket, if_neg (not_overCap_of_within hcap)]

/-- A continuation within the cap is appended; one that is discarded is harmless if it is empty. -/
theorem exec_continuation_within {payload : List Byte} {s : State} (hactive : s.pesActive = true ∨ payload = [])
    (hcap : ∀ cap, s.params.pesCap = some cap → s.pb.length + payload.length ≤ cap) :
    exec (decodeFragment false s.pesActive payload).instr s = .next { s with pb := s.pb ++ payload } := by
  rw [decodeFragment_instr]
  by_cases h : s.pesActive = true
  · rw [if_neg (by decide), if_pos h, exec_pesContAppend, pesContAppend, if_neg (not_overCap_of_within hcap)]
  · rw [if_neg (by decide), if_neg h, exec_pesContDiscard, hactive.resolve_left h, List.append_nil]

/-- Settles O22: a start, two continuations, a start; where the packet is not opened, all three fragments are empty. -/
theorem reassemblyLaw : Obligations.ReassemblyLaw := by
  unfold Obligations.ReassemblyLaw
  intro s f1 f2 f3 f4 hpb hcap hopen
  have hactive : (s.params.emptyStartOpens || !f1.isEmpty) = true ∨ (f2 = [] ∧ f3 = []) := by
    obtain h | h | h := hopen
    · exact .inl (by simp [h])
    · exact .inl (by simp [h])
    · obtain ⟨h12, h3⟩ := List.append_eq_nil_iff.mp h
      exact .inr ⟨(List.append_eq_nil_iff.mp h12).2, h3⟩
  refine ⟨{ s with pb := f1, pesActive := s.params.emptyStartOpens || !f1.isEmpty },
    { s with pb := f1 ++ f2, pesActive := s.params.emptyStartOpens || !f1.isEmpty },
    { s with pb := f1 ++ f2 ++ f3, pesActive := s.params.emptyStartOpens || !f1.isEmpty }, _, ?_, ?_, ?_, ?_, rfl, rfl⟩
  · rw [exec_pesStart_within, closePacket_eq, if_pos hpb]
    intro cap h
    have := hcap cap h
    omega
  · refine exec_continuation_within (hactive.imp_right And.left) fun cap h => ?_
    have := hcap cap h
    show f1.length + f2.length ≤ cap
    omega
  · refine exec_continuation_within (hactive.imp_right And.right) fun cap h => ?_
    have := hcap cap h
    show (f1 ++ f2).length + f3.length ≤ cap
    rw [List.length_append]
    omega
  · refine (exec_pesStart_within ?_).trans ?_
    · exact fun cap h => (hcap cap h).2
    · rw [closePacket_eq]
      split <;> rfl

/-! One field (R167, R171). -/

/-- Behind a whole slot nothing more of the region is read to select its operation. -/
theorem decodeSlot_append {u : List Byte} (h : u.length = 46) (c : Ctx) (v : List Byte) :
    decodeSlot c (u ++ v) = decodeSlot c u := by
  have hlong : ¬ (u ++ v).length < 46 := by
    rw [List.length_append]
    omega
  have hwhole : ¬ u.length < 46 := by omega
  simp only [decodeSlot, if_neg hlong, if_neg hwhole, List.take_left' h, List.take_of_length_le (Nat.le_of_eq h)]

theorem decodeRegion_append {u : List Byte} (h : u.length = 46) (dataId : Byte) (v : List Byte) (s : State) :
    decodeRegion (dataId :: (u ++ v)) s = decodeRegion (dataId :: v) (runSlot (decodeSlot s.ctx u) s) := by
  have hlong : 46 ≤ (u ++ v).length := by
    rw [List.length_append]
    omega
  rw [decodeRegion_slot hlong, decodeSlot_append h, List.drop_left' h]

/-- The line is in its row and LAST_OFF is its offset; no frame is emitted and the field goes on. -/
structure State.LineWritten (s : State) (row : Fin 16) (line : Line) (t : State) : Prop where
  fb : t.fb = s.fb.set row (reverseLine line)
  lastOff : t.lastOff = rowOffset row
  parity : t.parity = s.parity
  outq : t.outq = s.outq
  frames : framesOf t.trace = framesOf s.trace

section Slot

variable {s : State} {u : List Byte} {row : Fin 16} (hlen : u.length = 46) (hid : duIdOk (byteAt u 0) = true)
  (hoff : (slotOffset u).toNat = row.val + 7)
include hlen hid hoff

/-- A unit of the current parity writes its line, in order or not. -/
theorem runSlot_currentParity (hparity : slotParity u = s.parity) :
    s.LineWritten row (slotLine u) (runSlot (decodeSlot s.ctx u) s) := by
  by_cases hlt : row.val + 7 < s.ctx.lastOff.toNat
  · rw [decodeSlot_of_decreasing (c := s.ctx) (Nat.le_of_eq hlen.symm) hid hoff hparity hlt]
    exact ⟨rfl, rfl, rfl, rfl, by simp [runSlot, duLineDecreasing]⟩
  · rw [decodeSlot_of_inOrder (c := s.ctx) (Nat.le_of_eq hlen.symm) hid hoff hparity (Nat.le_of_not_lt hlt)]
    exact ⟨rfl, rfl, rfl, rfl, rfl⟩

theorem runSlot_otherParity (hparity : slotParity u ≠ s.parity) :
    runSlot (decodeSlot s.ctx u) s = duFieldFlip (slotParity u) row (slotLine u) s := by
  rw [decodeSlot_of_otherParity (c := s.ctx) (Nat.le_of_eq hlen.symm) hid hoff hparity, runSlot]

end Slot

theorem one_sub_ne_self (p : BitVec 1) : 1 - p ≠ p := by
  revert p
  decide

theorem reverseLine_slotLine_get (u : List Byte) (c : Fin 42) :
    (reverseLine (slotLine u)).get c = rev (byteAt u (4 + c.val)) := by
  rw [reverseLine_get, slotLine_get]

/-- Settles O36: two lines written, then the flip that emits them with the rows FB held. -/
theorem fieldEmissionLaw : Obligations.FieldEmissionLaw := by
  unfold Obligations.FieldEmissionLaw
  intro s dataId u1 u2 u3 hlen1 hlen2 hlen3 hid1 hid2 hid3 hparity1 hparity2 hparity3 hoff1 hoff2 hoff3 t
  have h1 : s.LineWritten 0 (slotLine u1) (runSlot (decodeSlot s.ctx u1) s) :=
    runSlot_currentParity hlen1 hid1 hoff1 hparity1
  generalize hs1 : runSlot (decodeSlot s.ctx u1) s = s1 at h1
  have h2 : s1.LineWritten 1 (slotLine u2) (runSlot (decodeSlot s1.ctx u2) s1) :=
    runSlot_currentParity hlen2 hid2 hoff2 (hparity2.trans h1.parity.symm)
  generalize hs2 : runSlot (decodeSlot s1.ctx u2) s1 = s2 at h2
  have hkept : s2.parity = s.parity := h2.parity.trans h1.parity
  have ht : t = duFieldFlip (slotParity u3) 0 (slotLine u3) s2 := by
    rw [← runSlot_otherParity hlen3 hid3 hoff3 (by rw [hkept, hparity3]; exact one_sub_ne_self s.parity)]
    change decodeRegion _ s = _
    rw [List.append_assoc, decodeRegion_append hlen1, hs1, decodeRegion_append hlen2, hs2,
      ← List.append_nil u3, decodeRegion_append hlen3, decodeRegion_tail (by decide), List.append_nil]
  rw [ht]
  refine ⟨serialise s2.fb, ?_, ?_, fun i r c hr hc => ?_, hparity3, rowOffset_toNat 0, fun r c => ?_⟩
  · change s2.outq ++ _ = _
    rw [h2.outq, h1.outq]
  · change framesOf (s2.trace ++ _) = _
    rw [framesOf_append, h2.frames, h1.frames, framesOf_frame]
  · have hrow : r = ⟨i.val / 42, by omega⟩ := Fin.ext hr
    have hcol : c = ⟨i.val % 42, by omega⟩ := Fin.ext hc
    rw [serialise_get, ← hrow, ← hcol, h2.fb, h1.fb, Block.get_set, Block.get_set]
    by_cases h0 : r = 0
    · rw [if_neg (by rw [h0]; decide), if_pos h0, if_pos h0, reverseLine_slotLine_get]
    · rw [if_neg h0, if_neg h0]
      split
      · exact reverseLine_slotLine_get u2 c
      · rfl
  · rw [← slotLine_get]
    exact zeroFieldBuffer_set_reverseLine_get 0 r (slotLine u3) c

end Sys2Proof.Machine
end

section
/-! The host's timing (20_memory.md R50, R51): what the block does with a byte does not depend on OUTQ, the sink or the host's side,
so that a turn of the host only moves a byte from those offered to those consumed. -/

set_option autoImplicit false

namespace Sys2Proof.Machine

/-! The part of the state that the stream alone determines. -/

/-- The state without the output queue, the sink's record, the returned value and the host's side. -/
def State.stream (s : State) : State :=
  { s with outq := [], taken := [], result := .none, offered := [], agenda := [] }

/-- The stream part of the result is a function of the stream part alone. -/
def IgnoresHost (f : State → State) : Prop := ∀ s, (f s).stream = (f s.stream).stream

theorem IgnoresHost.congr {f : State → State} (hf : IgnoresHost f) {s t : State} (h : s.stream = t.stream) :
    (f s).stream = (f t).stream := by
  rw [hf s, h, ← hf t]

theorem IgnoresHost.comp {f g : State → State} (hg : IgnoresHost g) (hf : IgnoresHost f) :
    IgnoresHost fun s => g (f s) :=
  fun s => hg.congr (hf s)

/-! Down the stages of the stream, from a slot to a byte. -/

theorem ignoresHost_runSlot (op : SlotOp) : IgnoresHost (runSlot op) := by
  intro s
  cases op <;> rfl

theorem ignoresHost_walkSlots (fuel : Nat) (rest : List Byte) : IgnoresHost (walkSlots fuel rest) := by
  induction fuel generalizing rest with
  | zero => exact fun s => rfl
  | succ n ih =>
    intro s
    by_cases hshort : rest.length < 46
    · rw [walkSlots_tail hshort, walkSlots_tail hshort]
      rfl
    · rw [walkSlots_slot (Nat.le_of_not_lt hshort), walkSlots_slot (Nat.le_of_not_lt hshort)]
      exact (ih (rest.drop 46)).comp (ignoresHost_runSlot (decodeSlot s.ctx rest)) s

theorem ignoresHost_pesDeliver (q : List Byte) : IgnoresHost (pesDeliver q) := by
  intro s
  unfold pesDeliver
  generalize decodePacket q = op
  cases op with
  | accept region => exact ignoresHost_walkSlots _ _ s
  | _ => rfl

theorem ignoresHost_closePacket : IgnoresHost closePacket := by
  intro s
  rw [closePacket_eq, closePacket_eq]
  change _ = State.stream (if s.pb = [] then _ else _)
  split
  · rfl
  · exact ignoresHost_pesDeliver s.pb { s with pb := [] }

theorem ignoresHost_openPacket (payload : List Byte) : IgnoresHost (openPacket payload) := by
  intro s
  unfold openPacket
  change _ = State.stream (if s.overCap payload.length = true then _ else _)
  split <;> rfl

theorem ignoresHost_pesContAppend (payload : List Byte) : IgnoresHost (pesContAppend payload) := by
  intro s
  unfold pesContAppend
  change _ = State.stream (if s.overCap (s.pb.length + payload.length) = true then _ else _)
  split <;> rfl

theorem ignoresHost_runFragment (op : FragmentOp) : IgnoresHost (runFragment op) := by
  cases op with
  | start payload => exact (ignoresHost_openPacket payload).comp ignoresHost_closePacket
  | contAppend payload => exact ignoresHost_pesContAppend payload
  | contDiscard payload => exact fun s => rfl

theorem ignoresHost_pesFragment (payload : List Byte) (isStart : Bool) : IgnoresHost (pesFragment payload isStart) := by
  intro s
  rw [pesFragment_eq, pesFragment_eq]
  exact ignoresHost_runFragment (decodeFragment isStart s.pesActive payload) s

theorem ignoresHost_processStride : IgnoresHost processStride := by
  intro s
  have hsame : decodeStride s.stream.ctx s.stream.sb = decodeStride s.ctx s.sb := rfl
  unfold processStride
  rw [hsame]
  generalize decodeStride s.ctx s.sb = op
  cases op with
  | afc1 pusi payload => exact ignoresHost_pesFragment payload pusi s
  | afc3 pusi len rest => exact ignoresHost_pesFragment (afc3Payload len rest) pusi s
  | _ => rfl

theorem ignoresHost_strideAssembly (b : Byte) : IgnoresHost (strideAssembly b) := by
  intro s
  by_cases h : s.sbCnt.val = 187
  · rw [strideAssembly_last h, strideAssembly_last (s := s.stream) h]
    exact ignoresHost_processStride { s with sb := s.sb.set s.sbCnt b, sbCnt := 0 }
  · rw [strideAssembly_stores h, strideAssembly_stores (s := s.stream) h]
    rfl

theorem ignoresHost_feedByte (b : Byte) : IgnoresHost (feedByte · b) := by
  intro s
  change (feedByte s b).stream = (feedByte s.stream b).stream
  unfold feedByte
  change _ = State.stream (if (s.halted || s.ovf) = true then _ else _)
  split
  · rfl
  · exact ignoresHost_strideAssembly b s

theorem foldl_feedByte_stream (bs : List Byte) {s t : State} (h : s.stream = t.stream) :
    (bs.foldl feedByte s).stream = (bs.foldl feedByte t).stream := by
  induction bs generalizing s t with
  | nil => exact h
  | cons b bs ih => exact ih ((ignoresHost_feedByte b).congr h)

theorem foldl_feedByte_trace (bs : List Byte) {s t : State} (h : s.stream = t.stream) :
    (bs.foldl feedByte s).trace = (bs.foldl feedByte t).trace := by
  have hstream := congrArg State.trace (foldl_feedByte_stream bs h)
  exact hstream

theorem eventualTrace_congr {s t : State} (hstream : t.stream = s.stream) (hoffered : t.offered = s.offered) :
    t.eventualTrace = s.eventualTrace := by
  rw [State.eventualTrace, State.eventualTrace, hoffered]
  exact foldl_feedByte_trace s.offered hstream

/-! The turns. -/

theorem takeFrame_stream (s : State) : (takeFrame s).stream = s.stream := by
  rw [takeFrame_frame]
  rfl

theorem strideAssembly_offered (b : Byte) (s : State) : (strideAssembly b s).offered = s.offered := by
  by_cases h : s.sbCnt.val = 187
  · rw [strideAssembly_last h, processStride_strideStep]
  · rw [strideAssembly_stores h]

/-- A byte taken is the next byte of the stream; one that waits stays the first offered. -/
theorem exec_inByte_eventualTrace {b : Byte} {s t : State} (h : exec (.inByte b) s = .next t) :
    t.eventualTrace = State.eventualTrace { s with offered := b :: s.offered } := by
  have hc : s.configured = true := (whenConfigured_next.mp h).1
  by_cases hr : s.inReady = true
  · rw [exec_inByte_ready hc hr] at h
    cases h
    obtain ⟨hhalted, hovf, _⟩ := (inReady_iff s).mp hr
    have hfeed : feedByte { s with offered := b :: s.offered } b = strideAssembly b { s with offered := b :: s.offered } := by
      simp [feedByte, hhalted, hovf]
    have hstream : (strideAssembly b s).stream = (strideAssembly b { s with offered := b :: s.offered }).stream :=
      (ignoresHost_strideAssembly b).congr rfl
    rw [State.eventualTrace, State.eventualTrace, strideAssembly_offered, List.foldl_cons, hfeed]
    exact foldl_feedByte_trace s.offered hstream
  · rw [exec_inByte_waits hc hr] at h
    cases h
    rfl

/-- A turn of the source, the sink or a STATUS reader. -/
theorem step_flow {s t : State} {act : HostAct} {rest : List HostAct} (hagenda : s.agenda = act :: rest)
    (hflow : act.isFlow = true) (h : step s = .next t) :
    t.configured = s.configured ∧ t.agenda = rest ∧ t.eventualTrace = s.eventualTrace := by
  cases act with
  | offer =>
    cases hoffered : s.offered with
    | nil =>
      rw [step_offer_nothing hagenda hoffered] at h
      cases h
      exact ⟨rfl, rfl, eventualTrace_congr rfl rfl⟩
    | cons b bs =>
      rw [step_offer hagenda hoffered] at h
      have hsame := exec_sameSetup h nofun
      exact ⟨hsame.configured, hsame.agenda,
        (exec_inByte_eventualTrace h).trans (eventualTrace_congr rfl hoffered.symm)⟩
  | take =>
    rw [step_take hagenda] at h
    have hsame := exec_sameSetup h nofun
    obtain ⟨_, rfl⟩ := whenConfigured_next.mp h
    exact ⟨hsame.configured, hsame.agenda, eventualTrace_congr (takeFrame_stream _) (by rw [takeFrame_frame])⟩
  | readStatus =>
    rw [step_readStatus hagenda] at h
    obtain ⟨_, rfl⟩ := whenConfigured_next.mp h
    exact ⟨rfl, rfl, eventualTrace_congr rfl rfl⟩
  | cancel => cases hflow
  | reset pid => cases hflow

/-- Settles O50. -/
theorem hostTimingKeepsEventualTrace : Obligations.HostTimingKeepsEventualTrace := by
  unfold Obligations.HostTimingKeepsEventualTrace
  intro s t act rest hc hagenda hflow h
  obtain ⟨hconfigured, _, htrace⟩ := step_flow hagenda hflow h
  exact ⟨hconfigured.trans hc, htrace⟩

/-! Runs. -/

theorem run_succ {M : Host.Core} {k : Nat} {s t : M.State} (h : M.run (k + 1) s = .next t) :
    ∃ u, M.step s = .next u ∧ M.run k u = .next t := by
  unfold Host.Core.run at h
  cases hstep : M.step s with
  | next u =>
    rw [hstep] at h
    exact ⟨u, rfl, h⟩
  | fault r | refused r =>
    rw [hstep] at h
    cases h

/-- A run of flow turns keeps the eventual trace, by induction on its steps. -/
theorem run_eventualTrace {k : Nat} {s t : State} (hflow : ∀ act ∈ s.agenda, act.isFlow = true)
    (h : Host.Core.run Sys2Proof.core k s = .next t) : t.eventualTrace = s.eventualTrace := by
  induction k generalizing s with
  | zero =>
    cases h
    rfl
  | succ k ih =>
    obtain ⟨u, hstep, hrun⟩ := run_succ h
    change step s = _ at hstep
    cases hagenda : s.agenda with
    | nil =>
      rw [step_nothing hagenda] at hstep
      cases hstep
      exact ih hflow hrun
    | cons act rest =>
      rw [hagenda] at hflow
      obtain ⟨hact, hrest⟩ := List.forall_mem_cons.mp hflow
      obtain ⟨_, hu, htrace⟩ := step_flow hagenda hact hstep
      exact (ih (hu ▸ hrest) hrun).trans htrace

/-- Settles O51: with no byte left to consume the trace is the eventual one. -/
theorem traceIndependentOfHostTiming : Obligations.TraceIndependentOfHostTiming := by
  unfold Obligations.TraceIndependentOfHostTiming
  intro k s t _ hflow h hempty
  have htrace : t.eventualTrace = t.trace := by rw [State.eventualTrace, hempty, List.foldl_nil]
  exact htrace.symm.trans (run_eventualTrace hflow h)

end Sys2Proof.Machine
end
